-- ==== Sys2Proof/Word.lean ====
section
/-! DEFINITION. The two kinds of value of the machine: integers and instruction text.

`INT`, the domain of `acc`, `cmp`, every stack slot and every operand, is Lean's `Int`: the unbounded
mathematical integers (00_scope.md R10, 41_stack_arith.md R130). UNVERIFIED, the spec's decision D1: log
entry 3. -/

namespace Sys2Proof

/-- Text: a finite string of characters, position 0 the leftmost (00_scope.md R16, 20_memory.md R53).
Any character may occur in it; the legal forms use ASCII ones only (30_encoding.md R83). -/
abbrev Text := List Char

end Sys2Proof
end

