-- ==== Sys2Proof/Syntax.lean ====
section
/-! DEFINITION. The decoded instructions: one constructor per row of spec/opcode_table.json. -/

namespace Sys2Proof

/-- The decoded form of an instruction (30_encoding.md R79, R80), in the table's order. -/
inductive Instr where
  /-- `START` (R121). -/
  | start
  /-- `PUSH v` (R123). -/
  | push (v : Int)
  /-- `POP` (R125). -/
  | pop
  /-- `ADD` (R127). -/
  | add
  /-- `HLT` (R141). -/
  | hlt
  /-- `JMP target`, the 1-based position of the destination (R143). -/
  | jmp (target : Int)
  /-- `ACC` (R151). -/
  | acc
  /-- `CMP threshold` (R153). -/
  | cmp (threshold : Int)
  deriving DecidableEq, Repr

end Sys2Proof
end

