-- ==== Sys2Proof/Decode.lean ====
section
/-! DEFINITION. The decoder, total on every text and rejecting by name, and the encoder.
30_encoding.md R74 to R80; the lexical choices are the spec's D5, D6 and D8 (log entries 9 and 10). -/

namespace Sys2Proof

/-- The two decode errors (30_encoding.md R81). -/
inductive DecodeError where
  /-- The operator token is none of the eight mnemonics (R77). -/
  | unknownOpcode
  /-- The operator is a mnemonic and its operand is wrong for it (R78). -/
  | malformedOperand
  deriving DecidableEq, Repr

/-! ### The split and the operand token -/

/-- The Decoder's split at the first U+0020: operator token and, if there is a space, the whole
remainder as the operand token (R74). -/
def split : Text → Text × Option Text
  | [] => ([], none)
  | c :: rest =>
    if c = ' ' then ([], some rest)
    else (c :: (split rest).1, (split rest).2)

/-- The value of one decimal digit character (R76). -/
def digitValue? (c : Char) : Option Nat :=
  if 48 ≤ c.toNat ∧ c.toNat ≤ 57 then some (c.toNat - 48) else none

/-- Digits read in base 10 after the value `n` of the digits before them; none at the first character
that is no digit (R76). -/
def digitsFrom? (n : Nat) : Text → Option Nat
  | [] => some n
  | c :: rest =>
    match digitValue? c with
    | some d => digitsFrom? (10 * n + d) rest
    | none => none

/-- One or more digits and nothing else (R76). -/
def unsignedValue? : Text → Option Nat
  | [] => none
  | c :: rest => digitsFrom? 0 (c :: rest)

/-- `IntOf`: the value of a well-formed operand token, none for a malformed one (R76). -/
def operandValue? : Text → Option Int
  | [] => none
  | c :: rest =>
    if c = '-' then
      match unsignedValue? rest with
      | some n => some (-(n : Int))
      | none => none
    else
      match unsignedValue? (c :: rest) with
      | some n => some (n : Int)
      | none => none

/-! ### The opcode map -/

/-- The mnemonic texts of the opcode map (R80). -/
def textStart : Text := ['S', 'T', 'A', 'R', 'T']
/-- R80. -/
def textPush : Text := ['P', 'U', 'S', 'H']
/-- R80. -/
def textPop : Text := ['P', 'O', 'P']
/-- R80. -/
def textAdd : Text := ['A', 'D', 'D']
/-- R80. -/
def textHlt : Text := ['H', 'L', 'T']
/-- R80. -/
def textJmp : Text := ['J', 'M', 'P']
/-- R80. -/
def textAcc : Text := ['A', 'C', 'C']
/-- R80. -/
def textCmp : Text := ['C', 'M', 'P']

/-- An operator that takes no operand: a present operand token, even an empty one, is
`MalformedOperand` (R78, the spec's D8: log entry 10). -/
def withoutOperand (i : Instr) : Option Text → Except DecodeError Instr
  | none => .ok i
  | some _ => .error .malformedOperand

/-- An operator that requires an operand: absent or malformed is `MalformedOperand` (R78). -/
def withOperand (f : Int → Instr) : Option Text → Except DecodeError Instr
  | none => .error .malformedOperand
  | some o =>
    match operandValue? o with
    | some v => .ok (f v)
    | none => .error .malformedOperand

/-- The checks the Engine makes on the two tokens: operator first, then arity and operand
(R77, R78, in the order of R79). -/
def decodeTokens (operator : Text) (operand : Option Text) : Except DecodeError Instr :=
  if operator = textStart then withoutOperand .start operand
  else if operator = textPush then withOperand .push operand
  else if operator = textPop then withoutOperand .pop operand
  else if operator = textAdd then withoutOperand .add operand
  else if operator = textHlt then withoutOperand .hlt operand
  else if operator = textJmp then withOperand .jmp operand
  else if operator = textAcc then withoutOperand .acc operand
  else if operator = textCmp then withOperand .cmp operand
  else .error .unknownOpcode

/-- `Decode` (R79). -/
def decode (t : Text) : Except DecodeError Instr :=
  decodeTokens (split t).1 (split t).2

/-! ### The encoder -/

/-- The operator token of an instruction (R80). -/
def mnemonic : Instr → Text
  | .start => textStart
  | .push _ => textPush
  | .pop => textPop
  | .add => textAdd
  | .hlt => textHlt
  | .jmp _ => textJmp
  | .acc => textAcc
  | .cmp _ => textCmp

/-- The opcode ordinal, a tag for a realisation that wants one; no rule depends on it
(R84, the spec's D10: log entry 21). -/
def ordinal : Instr → Nat
  | .start => 0
  | .push _ => 1
  | .pop => 2
  | .add => 3
  | .hlt => 4
  | .jmp _ => 5
  | .acc => 6
  | .cmp _ => 7

/-- The character of a digit below 10 (R76). -/
def digitChar (d : Nat) : Char := Char.ofNat (48 + d)

/-- The decimal digits of `n`, put before `rest`, most significant first; `fuel` bounds their number. -/
def decimalDigits : Nat → Nat → Text → Text
  | 0, _, rest => rest
  | fuel + 1, n, rest =>
    if n < 10 then digitChar n :: rest
    else decimalDigits fuel (n / 10) (digitChar (n % 10) :: rest)

/-- The decimal text of a natural number, without leading zeros. -/
def natText (n : Nat) : Text := decimalDigits (n + 1) n []

/-- The operand text of an integer: a minus sign exactly if it is negative, then its digits (R76). -/
def intText : Int → Text
  | .ofNat n => natText n
  | .negSucc n => '-' :: natText (n + 1)

/-- The operand token of an instruction, absent in format N (R71, R72). -/
def operandText : Instr → Option Text
  | .push v => some (intText v)
  | .jmp target => some (intText target)
  | .cmp threshold => some (intText threshold)
  | .start | .pop | .add | .hlt | .acc => none

/-- The canonical text of an instruction: format N or format I (R70 to R72). -/
def encode (i : Instr) : Text :=
  match operandText i with
  | none => mnemonic i
  | some o => mnemonic i ++ ' ' :: o

/-! ### Texts as the opcode table's numbers -/

/-- Text from bytes, one character a byte (R83). -/
def textOfBytes (bs : List Nat) : Text := bs.map Char.ofNat

/-- The bytes of a number of `n` bytes, most significant first: the table writes the first character of
the operator most significant (the opening paragraph of 30_encoding.md). -/
def bytesOf (n w : Nat) : List Nat :=
  (List.range n).map fun k => w / 256 ^ (n - 1 - k) % 256

/-- A row of format I has no bits for its separator and operand in the table: they are completed with
the operand zero. A convention of the host's questions, not of the machine, whose decoder refuses
`PUSH` without an operand (R78): DESIGN CHOICE, log entry 18. -/
def completeOperand (t : Text) : Text :=
  if t = textPush ∨ t = textJmp ∨ t = textCmp then t ++ [' ', '0'] else t

/-- The instruction text that a number of the opcode table stands for; zero bytes before the first
character are no part of it: log entry 18. -/
def tableText (nbits w : Nat) : Text :=
  completeOperand (textOfBytes ((bytesOf (nbits / 8) w).dropWhile (· == 0)))

/-- What the decoder reads from an instruction given as the opcode table numbers it: log entry 18. -/
def decodeTableWord (nbits w : Nat) : Option Instr :=
  match decode (tableText nbits w) with
  | .ok i => some i
  | .error _ => none

end Sys2Proof
end

