-- ==== Sys2Proof/Config.lean ====
section
/-! DEFINITION. What the constructor of an engine fixes, and the one parameter the spec leaves open. -/

namespace Sys2Proof

/-- The default stack capacity in slots (00_scope.md R7, "stack capacity (default 5)"; R9). -/
def Config.defaultCap : Nat := 5

/-- A free value: nothing is known of it. `EXIT_STATUS_FATAL` less one; see below. -/
opaque Config.exitStatusFatalLessOne : Nat

/-- `EXIT_STATUS_FATAL`, the status a DRIVER exits with on a fatal error: open, constrained only to be
non-zero (60_exceptions.md R183, the spec's D24). No engine rule reads it: log entry 20. -/
def Config.exitStatusFatal : Nat := Config.exitStatusFatalLessOne + 1

end Sys2Proof
end

