-- ==== Sys2Proof/Machine/State.lean ====
section
/-! DEFINITION. The state of the engine (10_state.md), its reset, and the reasons a step of the model can
stop in the host's sense. The spec's own faults are not such stops: a step that raises one answers a NEXT
state with the latch `fault` written (log entry 6). -/

namespace Sys2Proof.Machine

/-- The six fault kinds (60_exceptions.md R181; 10_state.md R29). -/
inductive FaultKind where
  /-- POP or ADD with no live slot (R184). -/
  | stackUnderflow
  /-- PUSH on a full stack (R185). -/
  | stackOverflow
  /-- JMP to a destination outside the program (R186). -/
  | invalidJumpTarget
  /-- The operator token is no mnemonic (R187). -/
  | unknownOpcode
  /-- The operand is wrong for the operator (R188). -/
  | malformedOperand
  /-- A non-inert step with no instruction at `ip` (R189, the spec's D11: log entry 11). -/
  | fetchOutOfBounds
  deriving DecidableEq, Repr

/-- A stop of the model, not of the machine: a step that would need what the spec says does not exist. -/
inductive Fault where
  /-- Raised by ADD where `sp` exceeds the capacity: slot `i` does not exist (00_scope.md R15). No run
  reaches such a state (10_state.md R38). Safe: the model stops where the spec gives nothing. Log entry 15. -/
  | slotOutsideStack (i : Nat)
  deriving DecidableEq, Repr

/-- Instructions the model gives no meaning to. -/
inductive Refusal where
  /-- Raised by an arm of `exec` with no meaning yet: none is left. Safe. -/
  | notModelled (mnemonic : String)
  deriving DecidableEq, Repr

/-- The stack space: the contents of slots 0, 1, … in order, every slot of `[0, CAP)` listed once
(10_state.md R26; 20_memory.md R50, R53). The machine has no bytes: log entry 2. -/
abbrev Memory := List Int

/-- The one form of a stack of `cap` slots: it lists exactly them. -/
def Memory.wf (cap : Nat) (m : Memory) : Bool := m.length == cap

/-- The state (10_state.md R20), with the construction parameter PROGRAM; CAP is the number of slots
(log entries 1 and 2). -/
structure State where
  /-- PROGRAM, the caller's read-only sequence of instruction texts (00_scope.md R8). -/
  program : List Text
  /-- The value stack, live and stale slots alike (R26 to R28). -/
  stack : Memory
  /-- The stack pointer, the index of the next free slot (R21). -/
  sp : Nat
  /-- The instruction pointer, the index of the next instruction to fetch (R22). -/
  ip : Nat
  /-- The accumulator (R23). -/
  acc : Int
  /-- The compare accumulator (R24). -/
  cmp : Int
  /-- The terminal flag (R25). -/
  halted : Bool
  /-- The fatal-error latch (R29). -/
  fault : Option FaultKind
  /-- The text of the instruction most recently executed (R30). -/
  last : Option Text
  deriving DecidableEq, Repr

/-- CAP, the capacity of the stack (00_scope.md R7; 10_state.md R21 writes `stack.capacity`). -/
def State.cap (s : State) : Nat := s.stack.length

/-- LEN, the length of the program (00_scope.md R8). -/
def State.len (s : State) : Nat := s.program.length

/-- Construction of an engine, which is its reset (50_interfaces.md R161, 70_reset_and_hazards.md R210):
every element at its value in 10_state.md R40. The values are the spec's decisions: log entries 4 to 7. -/
def State.construct (cap : Nat) (program : List Text) : State where
  program := program
  stack := List.replicate cap 0
  sp := 0
  ip := 0
  acc := 0
  cmp := 0
  halted := false
  fault := none
  last := none

/-- A reset input, if a realisation has one: construction again with the same CAP and PROGRAM
(R210, the spec's D20: log entry 25). -/
def State.reconstruct (s : State) : State := State.construct s.cap s.program

/-- The machine right after reset, with the default capacity and no program: the program is supplied
from outside (R8, R161; log entry 17). -/
def State.reset : State := State.construct Config.defaultCap []

end Sys2Proof.Machine
end

