-- ==== Sys2Proof/Machine/Flags.lean ====
section
/-! DEFINITION. The one flag `halted` (10_state.md R34), the comparison that sets it, and the gate that
reads it. -/

namespace Sys2Proof.Machine

/-- The terminal flag set; nothing clears it (10_state.md R25). -/
def setHalted (s : State) : State := { s with halted := true }

/-- CMP's test, signed, on the true values; equality satisfies it (41_stack_arith.md R131). -/
def thresholdReached (cmp threshold : Int) : Bool := decide (threshold ≤ cmp)

/-- The gate: a halted or faulted engine is inert (40_step_cycle.md R101; for `fault` the spec's D14:
log entry 13). -/
def inert (s : State) : Bool := s.halted || s.fault.isSome

end Sys2Proof.Machine
end

