-- ==== Sys2Proof/Machine/Operands.lean ====
section
/-! DEFINITION. The operand forms: none, an integer taken as it is (PUSH, CMP; 30_encoding.md R76), and
an integer taken as the 1-based position of an instruction (JMP). -/

namespace Sys2Proof.Machine

/-- The destination index of `JMP target` in a program of `len` instructions: `target - 1` where
`0 <= target - 1 < LEN`, else none (42_control.md R143; the bound is on the destination, C4). -/
def jumpDestination? (target : Int) (len : Nat) : Option Nat :=
  if 0 ≤ target - 1 ∧ target - 1 < (len : Int) then some (target - 1).toNat else none

end Sys2Proof.Machine
end

