-- ==== Sys2Proof/Machine/Ops.lean ====
section
/-! DEFINITION. The named operations over the stack, the registers, the fault latch and the program. -/

namespace Sys2Proof.Machine

/-! ### The stack space -/

/-- `MemRead(i, 1)`; none outside `[0, CAP)` (00_scope.md R15). -/
def readSlot (m : Memory) (i : Nat) : Option Int := m[i]?

/-- `MemWrite(i, 1, v)` (00_scope.md R15). Every caller has `i < CAP` from its guard (20_memory.md R57). -/
def writeSlot (m : Memory) (i : Nat) (v : Int) : Memory := m.set i v

/-- `ZeroStack()` (00_scope.md R15). -/
def zeroStack (m : Memory) : Memory := m.map fun _ => 0

/-- The sum of slots `[0, n)`, in INT; none if one of them does not exist (41_stack_arith.md R127). -/
def sumSlots (m : Memory) : Nat → Option Int
  | 0 => some 0
  | n + 1 =>
    match sumSlots m n, readSlot m n with
    | some a, some v => some (a + v)
    | _, _ => none

/-! ### Register updates -/

/-- "advances `ip`" (40_step_cycle.md R105). -/
def advance (s : State) : State := { s with ip := s.ip + 1 }

/-- `ip <- d`, with no advance after it (40_step_cycle.md R105). -/
def jumpTo (d : Nat) (s : State) : State := { s with ip := d }

/-- Every slot 0 and `sp <- 0`, as START and HLT do (41_stack_arith.md R121, 42_control.md R141). -/
def clearStack (s : State) : State := { s with stack := zeroStack s.stack, sp := 0 }

/-- `acc <- v` (10_state.md R23). -/
def setAcc (v : Int) (s : State) : State := { s with acc := v }

/-- `cmp <- v` (10_state.md R24). -/
def setCmp (v : Int) (s : State) : State := { s with cmp := v }

/-- `stack[sp] <- v; sp <- sp + 1` (41_stack_arith.md R123). -/
def pushValue (v : Int) (s : State) : State :=
  { s with stack := writeSlot s.stack s.sp v, sp := s.sp + 1 }

/-- `sp <- sp - 1`; the vacated slot keeps its content (41_stack_arith.md R125, R126). -/
def dropTop (s : State) : State := { s with sp := s.sp - 1 }

/-- `stack[0] <- v; sp <- 1` (41_stack_arith.md R127). -/
def leaveOnly (v : Int) (s : State) : State :=
  { s with stack := writeSlot s.stack 0 v, sp := 1 }

/-- `last <- t` (10_state.md R30). -/
def setLast (t : Text) (s : State) : State := { s with last := some t }

/-! ### Faults -/

/-- Taking a fault: `raise K` writes the latch and nothing else, and transfers control nowhere
(00_scope.md R17, 40_step_cycle.md R106, 60_exceptions.md R190). The latch is the spec's D4: log entry 6.
There is no return from a fault (60_exceptions.md R194), so no operation beside this one. -/
def raise (k : FaultKind) (s : State) : State := { s with fault := some k }

/-- The fault kind of a decode error (40_step_cycle.md R103). -/
def decodeFault : DecodeError → FaultKind
  | .unknownOpcode => .unknownOpcode
  | .malformedOperand => .malformedOperand

/-! ### Fetch and commit -/

/-- The program read port at `ip`: `PROGRAM[ip]`, none outside `[0, LEN)` (50_interfaces.md R162,
40_step_cycle.md R102). -/
def fetch (s : State) : Option Text := s.program[s.ip]?

/-- The end of a step that executed the text `t`: `last <- t` is committed with the instruction's own
assignments unless it raised a fault (40_step_cycle.md R104, R106). Stage 3 is reached only with the latch
empty, so a latch that is set was set by this instruction. -/
def retire (t : Text) : Host.Outcome State Fault Refusal → Host.Outcome State Fault Refusal
  | .next s => .next (if s.fault = none then setLast t s else s)
  | .fault r => .fault r
  | .refused r => .refused r

end Sys2Proof.Machine
end

