-- ==== Sys2Proof/Machine/Compare.lean ====
section
/-! DEFINITION. ACC and CMP (43_compare.md). -/

namespace Sys2Proof.Machine

/-- ACC: `cmp <- cmp + acc`, advance (R151). -/
def execAcc (s : State) : Host.Outcome State Fault Refusal :=
  .next (advance (setCmp (s.cmp + s.acc) s))

/-- CMP threshold: `halted` and no advance if `cmp` has reached it, else advance (R153). -/
def execCmp (threshold : Int) (s : State) : Host.Outcome State Fault Refusal :=
  if thresholdReached s.cmp threshold then .next (setHalted s) else .next (advance s)

end Sys2Proof.Machine
end

