-- ==== Sys2Proof/Machine/Control.lean ====
section
/-! DEFINITION. HLT and JMP (42_control.md). -/

namespace Sys2Proof.Machine

/-- HLT: `halted`, every slot 0, `sp` 0, advance; `acc` and `cmp` are kept (R141, R142). -/
def execHlt (s : State) : Host.Outcome State Fault Refusal :=
  .next (advance (clearStack (setHalted s)))

/-- JMP target: `ip <- target - 1` and no advance after it, or `InvalidJumpTarget` (R143, R144;
90_conflicts.md C3, C4). -/
def execJmp (target : Int) (s : State) : Host.Outcome State Fault Refusal :=
  match jumpDestination? target s.len with
  | some d => .next (jumpTo d s)
  | none => .next (raise .invalidJumpTarget s)

end Sys2Proof.Machine
end

