-- ==== Sys2Proof/Machine/StackArith.lean ====
section
/-! DEFINITION. START, PUSH, POP, ADD (41_stack_arith.md). -/

namespace Sys2Proof.Machine

/-- START: every slot 0, `sp` 0, `acc` 0, advance; `cmp` is not written (R121, R122). -/
def execStart (s : State) : Host.Outcome State Fault Refusal :=
  .next (advance (setAcc 0 (clearStack s)))

/-- PUSH v: `StackOverflow` unless `sp < CAP`; else `v` at the old `sp`, `sp + 1`, advance (R123).
The precondition is tested as R104 says, so `sp > CAP`, which no run reaches, also overflows: log entry 14. -/
def execPush (v : Int) (s : State) : Host.Outcome State Fault Refusal :=
  if s.sp < s.cap then .next (advance (pushValue v s))
  else .next (raise .stackOverflow s)

/-- POP: `StackUnderflow` if `sp = 0`; else `sp - 1`, advance (R125). -/
def execPop (s : State) : Host.Outcome State Fault Refusal :=
  if s.sp = 0 then .next (raise .stackUnderflow s)
  else .next (advance (dropTop s))

/-- ADD: `StackUnderflow` if `sp = 0`; else `acc` is OVERWRITTEN with the sum of all live slots, which
becomes the only live slot; advance (R127, R128; 90_conflicts.md C2). A live slot that does not exist
(`sp > CAP`, which no run reaches) stops the model: log entry 15. -/
def execAdd (s : State) : Host.Outcome State Fault Refusal :=
  if s.sp = 0 then .next (raise .stackUnderflow s)
  else
    match sumSlots s.stack s.sp with
    | some v => .next (advance (leaveOnly v (setAcc v s)))
    | none => .fault (.slotOutsideStack (s.sp - 1))

end Sys2Proof.Machine
end

