-- ==== Sys2Proof/Machine/Dispatch.lean ====
section
/-! DEFINITION. The dispatch on the decoded instruction, one arm per constructor and no default arm
(40_step_cycle.md R104, R108). -/

namespace Sys2Proof.Machine

def exec (i : Instr) (s : State) : Host.Outcome State Fault Refusal :=
  match i with
  | .start => Sys2Proof.Machine.execStart s
  | .push v => Sys2Proof.Machine.execPush v s
  | .pop => Sys2Proof.Machine.execPop s
  | .add => Sys2Proof.Machine.execAdd s
  | .hlt => Sys2Proof.Machine.execHlt s
  | .jmp target => Sys2Proof.Machine.execJmp target s
  | .acc => Sys2Proof.Machine.execAcc s
  | .cmp threshold => Sys2Proof.Machine.execCmp threshold s

end Sys2Proof.Machine
end

