-- ==== Sys2Proof/Machine/Step.lean ====
section
/-! DEFINITION. One step: gate, fetch, decode, dispatch and execute, commit (40_step_cycle.md R108). -/

namespace Sys2Proof.Machine

/-- One step request (R108). The order of the checks is the spec's D13: log entry 12. -/
def step (s : State) : Host.Outcome State Fault Refusal :=
  if inert s then .next s
  else
    match fetch s with
    | none => .next (raise .fetchOutOfBounds s)
    | some t =>
      match decode t with
      | .error e => .next (raise (decodeFault e) s)
      | .ok i => retire t (exec i s)

/-- `s` with the instruction of an opcode-table number placed where the next step fetches, and the gate
open, so that the next step runs exactly it. It stands for the loading of a program from outside
(50_interfaces.md R161): log entries 17 and 18. -/
def State.withFetchWord (s : State) (nbits w : Nat) : State :=
  { s with
    program := s.program.take s.ip ++ List.replicate (s.ip - s.len) [] ++
      tableText nbits w :: s.program.drop (s.ip + 1)
    halted := false
    fault := none }

end Sys2Proof.Machine
end

