-- ==== Sys2Proof/Machine/Interface.lean ====
section
/-! DEFINITION. What the engine shows its host: the phase, the step result, the fault report, the snapshot
and the end of a run (50_interfaces.md; 10_state.md R31). All of it is read off the state: log entry 19. -/

namespace Sys2Proof.Machine

/-! ### The phase and the end of a run -/

/-- The four phases (10_state.md R31; the fourth and the derivation are the spec's D17: log entry 22). -/
inductive Phase where
  | ready
  | running
  | halted
  | faulted
  deriving DecidableEq, Repr

/-- The phase, read off the state in the order of 10_state.md R31. -/
def phase (s : State) : Phase :=
  if s.fault.isSome then .faulted
  else if s.halted then .halted
  else if s.last.isNone then .ready
  else .running

/-- A run is over when, and only when, `halted` is true or a fault is latched (50_interfaces.md R171). -/
def runOver (s : State) : Bool := s.halted || s.fault.isSome

/-- The status of a driver's process when a run has ended: `EXIT_STATUS_FATAL` for a fatal fault, else
none, since the spec gives no other (60_exceptions.md R183: log entry 20). -/
def driverExitStatus (s : State) : Option Nat :=
  if s.fault.isSome then some Config.exitStatusFatal else none

/-! ### The fault report -/

/-- The values the failed guard compared: the last column of 60_exceptions.md R181. -/
inductive Compared where
  | sp (sp : Nat)
  | spCap (sp cap : Nat)
  | targetLen (target : Int) (len : Nat)
  | ipLen (ip len : Nat)
  | nothing
  deriving DecidableEq, Repr

/-- `Fault(K, info)`: the kind, the index and text of the failing instruction, the compared values
(50_interfaces.md R167, 60_exceptions.md R191). -/
structure FaultReport where
  kind : FaultKind
  ip : Nat
  text : Option Text
  compared : Compared
  deriving DecidableEq, Repr

/-- The values the guard of kind `k` compares in the state `s` (60_exceptions.md R181). -/
def comparedValues (k : FaultKind) (s : State) : Compared :=
  match k with
  | .stackUnderflow => .sp s.sp
  | .stackOverflow => .spCap s.sp s.cap
  | .invalidJumpTarget =>
    match (fetch s).map decode with
    | some (.ok (.jmp target)) => .targetLen target s.len
    | _ => .nothing
  | .unknownOpcode => .nothing
  | .malformedOperand => .nothing
  | .fetchOutOfBounds => .ipLen s.ip s.len

/-- The report of a fault of kind `k` raised by a step from `s`. The faulting step changes the latch alone
(40_step_cycle.md R106), so the report can be read off the state after it as well (60_exceptions.md R191). -/
def faultReport (k : FaultKind) (s : State) : FaultReport where
  kind := k
  ip := s.ip
  text := fetch s
  compared := comparedValues k s

/-- The numeric fault code, for a realisation that reports a number; no rule depends on it
(60_exceptions.md R182, the spec's D12: log entry 21). -/
def faultCode : Option FaultKind → Nat
  | none => 0
  | some .stackUnderflow => 1
  | some .stackOverflow => 2
  | some .invalidJumpTarget => 3
  | some .unknownOpcode => 4
  | some .malformedOperand => 5
  | some .fetchOutOfBounds => 6

/-! ### The step result -/

/-- The result of a step (40_step_cycle.md R107, 50_interfaces.md R164). -/
inductive StepResult where
  | executed (t : Text)
  | inert
  | fault (r : FaultReport)
  deriving DecidableEq, Repr

/-- The result that a step which leads from `s` to `t` returns (40_step_cycle.md R107, R108). -/
def resultOf (s t : State) : StepResult :=
  if inert s then .inert
  else
    match t.fault, fetch s with
    | some k, _ => .fault (faultReport k s)
    | none, some text => .executed text
    | none, none => .inert

/-- The result of the step from `s`; none where the model stops (log entry 15). -/
def stepResult (s : State) : Option StepResult :=
  match step s with
  | .next t => some (resultOf s t)
  | .fault _ => none
  | .refused _ => none

/-! ### The snapshot -/

/-- The snapshot's eight fields (50_interfaces.md R165). -/
structure Snapshot where
  sp : Nat
  ip : Nat
  acc : Int
  cmp : Int
  /-- One entry a slot, all CAP of them: its value for a live slot, `none` (any value) for a stale one. -/
  stack : List (Option Int)
  halted : Bool
  currentInstruction : Option Text
  nextInstruction : Option Text
  deriving DecidableEq, Repr

/-- The stack as an observer may read it: live slots by value, stale slots as any value
(10_state.md R27, R28; 93_implementation_defined.md U1: log entry 8). -/
def observedStack (s : State) : List (Option Int) :=
  s.stack.mapIdx fun i v => if i < s.sp then some v else none

/-- The snapshot (50_interfaces.md R165, R166). `nextInstruction` is raw text, shown whether or not the
engine is halted (the spec's D18: log entry 23). -/
def snapshot (s : State) : Snapshot where
  sp := s.sp
  ip := s.ip
  acc := s.acc
  cmp := s.cmp
  stack := observedStack s
  halted := s.halted
  currentInstruction := s.last
  nextInstruction := fetch s

end Sys2Proof.Machine
end

