-- ==== Sys2Proof/Safety.lean ====
section
/-! DEFINITION. The invariant of the machine, and the relations between states that the statements use. -/

namespace Sys2Proof.Safety
open Sys2Proof.Machine

/-- The invariant of 10_state.md R38: `sp` and `ip` in their ranges, and never both halted and faulted. -/
def Invariant (s : State) : Prop :=
  s.sp ≤ s.cap ∧ s.ip ≤ s.len ∧ ¬ (s.halted = true ∧ s.fault ≠ none)

/-- The live values, slot 0 first (10_state.md R27). -/
def live (s : State) : List Int := s.stack.take s.sp

/-- Two states that differ at most in what their stale slots hold (10_state.md R27, R28). -/
def SameButStale (s t : State) : Prop :=
  t.program = s.program ∧ t.cap = s.cap ∧ t.sp = s.sp ∧ live t = live s ∧ t.ip = s.ip ∧ t.acc = s.acc ∧
    t.cmp = s.cmp ∧ t.halted = s.halted ∧ t.fault = s.fault ∧ t.last = s.last

/-- A step from `s` is not inert and fetches a text that decodes to `i` (40_step_cycle.md R101 to R103). -/
def Reaches (s : State) (i : Instr) : Prop :=
  inert s = false ∧ ∃ t, fetch s = some t ∧ decode t = .ok i

/-- One stack operation: a push of a value, or a pop (the document's E1; 41_stack_arith.md R129). -/
inductive StackOp where
  | push (v : Int)
  | pop
  deriving DecidableEq, Repr

/-- The instruction of a stack operation. -/
def StackOp.instr : StackOp → Instr
  | .push v => .push v
  | .pop => .pop

/-- A sequence of stack operations done by `exec`, ended by the first fault, latched or not. -/
def execAll : List StackOp → State → Option State
  | [], s => some s
  | o :: rest, s =>
    match exec o.instr s with
    | .next t => if t.fault = none then execAll rest t else none
    | .fault _ => none
    | .refused _ => none

/-- The same sequence on a plain list, the newest value last, with room for `cap` values; none where it
pops an empty list or pushes on a full one. -/
def modelAll (cap : Nat) : List StackOp → List Int → Option (List Int)
  | [], l => some l
  | .push v :: rest, l => if l.length < cap then modelAll cap rest (l ++ [v]) else none
  | .pop :: rest, l => if l = [] then none else modelAll cap rest l.dropLast

/-- How many of the operations are pushes. -/
def pushes (ops : List StackOp) : Nat := (ops.filter fun o => decide (o ≠ .pop)).length

/-- How many of the operations are pops. -/
def pops (ops : List StackOp) : Nat := (ops.filter fun o => decide (o = .pop)).length

end Sys2Proof.Safety
end

