-- ==== Sys2Proof/WellFormed.lean ====
section
/-! DEFINITION. What a legal instruction text is, as a grammar written apart from the decoder.

Every value of `Instr` is well formed: an operand is any integer of INT, with no range check
(30_encoding.md R76, R79), so there is no check on `Instr` and no ill-formed value of it. What can be ill
formed is a TEXT: formats N and I of R70 to R72 with the operand grammar of R76. The decoder
(Decode.lean) does not use this file; that the two agree is a statement. -/

namespace Sys2Proof

/-- The ten decimal digits of the operand grammar (R76). -/
def isDecimalDigit (c : Char) : Bool :=
  ['0', '1', '2', '3', '4', '5', '6', '7', '8', '9'].contains c

/-- One or more decimal digits and nothing else (R76). -/
def unsignedWellFormed (o : Text) : Bool :=
  !o.isEmpty && o.all isDecimalDigit

/-- The operand grammar: an optional minus sign, then one or more decimal digits (R76). The exact
grammar is the spec's D5: log entry 9. -/
def operandWellFormed : Text → Bool
  | [] => false
  | c :: o => if c = '-' then unsignedWellFormed o else unsignedWellFormed (c :: o)

/-- The operators of format N (R71). -/
def operatorsN : List Text :=
  [['S', 'T', 'A', 'R', 'T'], ['P', 'O', 'P'], ['A', 'D', 'D'], ['H', 'L', 'T'], ['A', 'C', 'C']]

/-- The operators of format I (R72). -/
def operatorsI : List Text :=
  [['P', 'U', 'S', 'H'], ['J', 'M', 'P'], ['C', 'M', 'P']]

/-- Format N: the text is the operator alone (R71). -/
def formatN (t : Text) : Bool :=
  operatorsN.contains t

/-- Format I: the operator, one space, a well-formed operand (R72). -/
def formatI (t : Text) : Bool :=
  operatorsI.any fun m => (m ++ [' ']).isPrefixOf t && operandWellFormed (t.drop (m.length + 1))

/-- A legal instruction text: exactly the two formats (R70). -/
def textWellFormed (t : Text) : Bool :=
  formatN t || formatI t

end Sys2Proof
end

