-- ==== Sys2Proof/Certificates/Slice0/Obligations.lean ====
section
/-! DEFINITION. The statements about the model, each from the rules of spec/ that its docstring names.

What a stale slot holds is any value to an observer (10_state.md R27, R28; 93_implementation_defined.md U1).
So the statements of PUSH, POP and ADD speak of the slot written and of the slots that stay live; those of START
and HLT of the slots their rules zero; JMP, ACC, CMP and a raised fault write no slot at all. The frame over the
physical content of EVERY slot, stale ones included, is one statement, `SlotsNotNamedKeepTheirContent`, which
says what it rests on. -/

open Sys2Proof Sys2Proof.Machine Sys2Proof.Safety

/-! ### Construction (reset) -/

/-- 10_state.md section 8, 70_reset_and_hazards.md section 1. The values are the spec's own choices and
inferences (D2, D3, D4, D15; log entries 4 to 7); the capacity and the program of `State.reset` are the
model's (log entry 17). -/
def Obligations.ConstructionSetsEveryElement : Prop :=
  (∀ cap program, ∀ s, s = State.construct cap program →
    s.cap = cap ∧ s.program = program ∧ s.sp = 0 ∧ s.ip = 0 ∧ s.acc = 0 ∧ s.cmp = 0 ∧ s.halted = false ∧
      s.fault = none ∧ s.last = none ∧ (∀ i, i < cap → readSlot s.stack i = some 0) ∧ phase s = .ready) ∧
  State.reset = State.construct 5 []

/-- 10_state.md section 7: reset establishes the invariant. -/
def Obligations.ConstructionMeetsInvariant : Prop :=
  ∀ cap program, Invariant (State.construct cap program)

/-- 70_reset_and_hazards.md section 1: the first fetch is at program index 0, and an empty program faults at
once (the spec's D2 and D11; log entries 4 and 11). -/
def Obligations.FirstStepFetchesProgramIndexZero : Prop :=
  (∀ cap x rest, fetch (State.construct cap (x :: rest)) = some x) ∧
  (∀ cap, step (State.construct cap []) =
    .next { State.construct cap [] with fault := some .fetchOutOfBounds })

/-! ### The eight instruction rules: result, frame, and where each one completes -/

/-- R121. START: every slot 0, `sp` 0, `acc` 0, `ip + 1`, from every state; nothing else changes. -/
def Obligations.StartClearsStackAndAcc : Prop :=
  ∀ s : State, ∃ t, exec .start s = .next t ∧
    (∀ i, i < s.cap → readSlot t.stack i = some 0) ∧ t.sp = 0 ∧ t.acc = 0 ∧ t.ip = s.ip + 1 ∧
    t.cap = s.cap ∧ t.program = s.program ∧ t.cmp = s.cmp ∧ t.halted = s.halted ∧ t.fault = s.fault ∧
    t.last = s.last

/-- R123. PUSH v with room writes `v` at the old `sp` and advances both `sp` and `ip`, leaving the live slots
and everything else; with `sp = CAP` it raises `StackOverflow`, which by R17 is the latch written and nothing
else (the latch is the spec's D4, log entry 6). -/
def Obligations.PushStoresOrOverflows : Prop :=
  ∀ (v : Int) (s : State),
    (s.sp < s.cap → ∃ t, exec (.push v) s = .next t ∧
      readSlot t.stack s.sp = some v ∧ t.sp = s.sp + 1 ∧ t.ip = s.ip + 1 ∧
      (∀ i, i < s.sp → readSlot t.stack i = readSlot s.stack i) ∧
      t.cap = s.cap ∧ t.program = s.program ∧ t.acc = s.acc ∧ t.cmp = s.cmp ∧ t.halted = s.halted ∧
      t.fault = s.fault ∧ t.last = s.last) ∧
    (s.sp = s.cap → exec (.push v) s = .next { s with fault := some .stackOverflow })

/-- R125. POP with a live slot takes 1 from `sp` and advances, leaving the slots that stay live and everything
else; with `sp = 0` it raises `StackUnderflow` (R17; the latch is the spec's D4, log entry 6). -/
def Obligations.PopDropsOrUnderflows : Prop :=
  ∀ s : State,
    (0 < s.sp → ∃ t, exec .pop s = .next t ∧
      t.sp = s.sp - 1 ∧ t.ip = s.ip + 1 ∧
      (∀ i, i < s.sp - 1 → readSlot t.stack i = readSlot s.stack i) ∧
      t.cap = s.cap ∧ t.program = s.program ∧ t.acc = s.acc ∧ t.cmp = s.cmp ∧ t.halted = s.halted ∧
      t.fault = s.fault ∧ t.last = s.last) ∧
    (s.sp = 0 → exec .pop s = .next { s with fault := some .stackUnderflow })

/-- R127. ADD puts the sum of the live slots in `acc` (whatever `acc` held) and in slot 0, leaves slot 0 the
only live slot, and advances; with `sp = 0` it raises `StackUnderflow` (R17; the latch is the spec's D4, log
entry 6). `sp <= CAP` is the machine's invariant, a statement of its own. -/
def Obligations.AddSumsLiveSlotsOrUnderflows : Prop :=
  ∀ s : State,
    (0 < s.sp → s.sp ≤ s.cap → ∃ t, exec .add s = .next t ∧
      t.acc = ((List.range s.sp).filterMap (readSlot s.stack)).sum ∧
      readSlot t.stack 0 = some t.acc ∧ t.sp = 1 ∧ t.ip = s.ip + 1 ∧
      t.cap = s.cap ∧ t.program = s.program ∧ t.cmp = s.cmp ∧ t.halted = s.halted ∧
      t.fault = s.fault ∧ t.last = s.last) ∧
    (s.sp = 0 → exec .add s = .next { s with fault := some .stackUnderflow })

/-- R141. HLT: `halted`, every slot 0, `sp` 0, `ip + 1`, from every state; `acc` and `cmp` kept. -/
def Obligations.HltHaltsAndClearsStack : Prop :=
  ∀ s : State, ∃ t, exec .hlt s = .next t ∧
    t.halted = true ∧ (∀ i, i < s.cap → readSlot t.stack i = some 0) ∧ t.sp = 0 ∧ t.ip = s.ip + 1 ∧
    t.cap = s.cap ∧ t.program = s.program ∧ t.acc = s.acc ∧ t.cmp = s.cmp ∧ t.fault = s.fault ∧
    t.last = s.last

/-- R143. JMP target in range writes `target - 1` to `ip`, with no advance, and nothing else; out of range it
raises `InvalidJumpTarget` before `ip` is written (R17; the latch is the spec's D4, log entry 6). -/
def Obligations.JmpGoesToTargetLessOneOrFaults : Prop :=
  ∀ (target : Int) (s : State),
    (1 ≤ target → target ≤ (s.len : Int) →
      ∃ d : Nat, (d : Int) = target - 1 ∧ d < s.len ∧ exec (.jmp target) s = .next { s with ip := d }) ∧
    (target < 1 ∨ (s.len : Int) < target →
      exec (.jmp target) s = .next { s with fault := some .invalidJumpTarget })

/-- R151. ACC adds `acc` to `cmp` and advances, from every state, and writes nothing else. -/
def Obligations.AccAddsAccumulatorToCmp : Prop :=
  ∀ s : State, exec .acc s = .next { s with cmp := s.cmp + s.acc, ip := s.ip + 1 }

/-- R153. CMP halts and keeps `ip` if `cmp` has reached the threshold, else advances; it writes nothing
else. -/
def Obligations.CmpHaltsExactlyAtThreshold : Prop :=
  ∀ (threshold : Int) (s : State),
    (threshold ≤ s.cmp → exec (.cmp threshold) s = .next { s with halted := true }) ∧
    (s.cmp < threshold → exec (.cmp threshold) s = .next { s with ip := s.ip + 1 })

/-- 95_test_vectors.md E2, the document's ADD property: PUSH b on a stack that holds just `a`, then ADD. -/
def Obligations.PushThenAddGivesTheSum : Prop :=
  ∀ (a b : Int) (s : State), s.sp = 1 → 1 < s.cap → readSlot s.stack 0 = some a →
    ∃ t u, exec (.push b) s = .next t ∧ exec .add t = .next u ∧
      u.acc = a + b ∧ readSlot u.stack 0 = some (a + b) ∧ u.sp = 1

/-- 70_reset_and_hazards.md section 2: what START leaves does not depend on `sp`, `acc` or any slot. -/
def Obligations.StartForgetsStackAndAcc : Prop :=
  ∀ (s : State) (stack : Memory) (sp : Nat) (acc : Int), stack.length = s.cap →
    exec .start { s with stack := stack, sp := sp, acc := acc } = exec .start s

/-! ### The step -/

/-- 40_step_cycle.md sections 2 and 3: gate, fetch, decode, execute and commit. A decoded instruction runs as
`exec`, and `last` is committed with it unless it raised a fault. The latch, `last`, the fetch fault and the
gate on a fault are the spec's D4, D15, D11 and D14 (log entries 6, 7, 11, 13). The last clause, on a stop of
`exec`, is the model's choice and no rule of the spec: `slotOutsideStack`, met only with `sp > CAP`, is no fault
of the machine (log entry 15). -/
def Obligations.StepRunsTheDecodedInstruction : Prop :=
  ∀ s : State,
    (s.halted = true ∨ s.fault ≠ none → step s = .next s) ∧
    (s.halted = false → s.fault = none →
      (s.len ≤ s.ip → step s = .next { s with fault := some .fetchOutOfBounds }) ∧
      ∀ x, s.program[s.ip]? = some x →
        (decode x = .error .unknownOpcode → step s = .next { s with fault := some .unknownOpcode }) ∧
        (decode x = .error .malformedOperand → step s = .next { s with fault := some .malformedOperand }) ∧
        ∀ i, decode x = .ok i →
          (∀ t, exec i s = .next t → t.fault = none → step s = .next { t with last := some x }) ∧
          (∀ t, exec i s = .next t → t.fault ≠ none → step s = .next t) ∧
          (∀ r, exec i s = .fault r → step s = .fault r))

/-- 40_step_cycle.md section 2: how an executed instruction leaves `ip`. -/
def Obligations.ExecutedStepLeavesIpAsItsRuleSays : Prop :=
  ∀ s t i, Reaches s i → step s = .next t → t.fault = none →
    (match i with
      | .jmp target => (t.ip : Int) = target - 1
      | .cmp threshold => t.ip = if threshold ≤ s.cmp then s.ip else s.ip + 1
      | .start | .push _ | .pop | .add | .hlt | .acc => t.ip = s.ip + 1) ∧
    t.ip ≤ s.len

/-- 40_step_cycle.md section 2 stage 0, 60_exceptions.md section 3: nothing leaves `Halted` or `Faulted`, for
any number of step requests (on a fault the spec's D14, log entry 13). -/
def Obligations.HaltedOrFaultedEngineStaysAsItIs : Prop :=
  ∀ (n : Nat) (s : State), s.halted = true ∨ s.fault ≠ none → Sys2Proof.core.run n s = .next s

/-- 40_step_cycle.md sections 2 and 3, 50_interfaces.md sections 1 and 3: the result of a step. A fault report
can be read off the state after the step as well as before it (the spec's D4 and D15; the model's reading of
the result off the state is log entry 19). -/
def Obligations.StepResultSaysWhatTheStepDid : Prop :=
  ∀ s t, step s = .next t →
    (s.halted = true ∨ s.fault ≠ none → stepResult s = some .inert ∧ t = s) ∧
    (s.halted = false → s.fault = none → t.fault = none →
      ∃ x, fetch s = some x ∧ t.last = some x ∧ stepResult s = some (.executed x)) ∧
    (∀ k, s.halted = false → s.fault = none → t.fault = some k →
      stepResult s = some (.fault (faultReport k t)) ∧ (faultReport k t).kind = k ∧
        (faultReport k t).ip = s.ip ∧ (faultReport k t).text = s.program[s.ip]?)

/-! ### Faults -/

/-- 40_step_cycle.md section 2, 60_exceptions.md section 3: a step that raises a fault writes the latch and
nothing else (the latch is the spec's D4, log entry 6). -/
def Obligations.FaultingStepWritesOnlyTheLatch : Prop :=
  ∀ s t, step s = .next t → s.fault = none → t.fault ≠ none → t = { s with fault := t.fault }

/-- 60_exceptions.md section 2: on a step that is not inert, each fault kind is raised exactly under its
condition, and so at most one at a time, in stage order (D8, D11 and D13 are the spec's choices; log entries
10 to 12). The invariant is a statement of its own. -/
def Obligations.EachFaultIsRaisedExactlyUnderItsCondition : Prop :=
  ∀ s, Invariant s → s.halted = false → s.fault = none → ∃ t, step s = .next t ∧
    (t.fault = some .stackUnderflow ↔ s.sp = 0 ∧ (Reaches s .pop ∨ Reaches s .add)) ∧
    (t.fault = some .stackOverflow ↔ s.sp = s.cap ∧ ∃ v, Reaches s (.push v)) ∧
    (t.fault = some .invalidJumpTarget ↔
      ∃ target, Reaches s (.jmp target) ∧ (target < 1 ∨ (s.len : Int) < target)) ∧
    (t.fault = some .unknownOpcode ↔
      ∃ x, fetch s = some x ∧ (split x).1 ∉ operatorsN ++ operatorsI) ∧
    (t.fault = some .malformedOperand ↔
      ∃ x, fetch s = some x ∧ (split x).1 ∈ operatorsN ++ operatorsI ∧ textWellFormed x = false) ∧
    (t.fault = some .fetchOutOfBounds ↔ s.ip = s.len)

/-! ### Invariants and whole-machine rules -/

/-- 10_state.md section 7, 50_interfaces.md section 1: from every state with `sp` and `ip` in range and not
both halted and faulted, a step request is accepted and leads to such a state. -/
def Obligations.EveryStepAnswersAndKeepsInvariant : Prop :=
  ∀ s, Invariant s → ∃ t, step s = .next t ∧ Invariant t

/-- 10_state.md section 7: every run of every engine, whatever its capacity and program, answers every step
request and stays within the invariant, with the capacity and program it was constructed with. -/
def Obligations.EveryRunOfEveryEngineKeepsInvariant : Prop :=
  ∀ cap program (n : Nat), ∃ t, Sys2Proof.core.run n (State.construct cap program) = .next t ∧
    Invariant t ∧ t.cap = cap ∧ t.program = program

/-- 00_scope.md section 4, 20_memory.md section 4: no step changes the capacity, the form of the stack or the
program. -/
def Obligations.StepKeepsCapacityAndProgram : Prop :=
  ∀ s t, step s = .next t →
    t.cap = s.cap ∧ Memory.wf s.cap t.stack = true ∧ t.program = s.program

/-- 10_state.md section 2, 42_control.md section 3: `halted`, once set, stays set, and a step sets it exactly
when it executes HLT or a CMP whose threshold `cmp` has reached. -/
def Obligations.HaltedIsSetExactlyByHltAndReachedCmp : Prop :=
  ∀ s t, step s = .next t →
    (s.halted = true → t.halted = true) ∧
    (s.halted = false → (t.halted = true ↔
      Reaches s .hlt ∨ ∃ threshold, Reaches s (.cmp threshold) ∧ threshold ≤ s.cmp))

/-- 10_state.md sections 2 and 6: `acc` changes only in a step that executes ADD or START, `cmp` only in one
that executes ACC, `sp` only in one that executes START, PUSH, POP, ADD or HLT. -/
def Obligations.RegistersChangeOnlyByTheirWriters : Prop :=
  ∀ s t, step s = .next t →
    (t.acc ≠ s.acc → Reaches s .add ∨ Reaches s .start) ∧
    (t.cmp ≠ s.cmp → Reaches s .acc) ∧
    (t.sp ≠ s.sp → Reaches s .start ∨ (∃ v, Reaches s (.push v)) ∨ Reaches s .pop ∨ Reaches s .add ∨
      Reaches s .hlt)

/-- 43_compare.md, 90_conflicts.md C9: a step adds nothing to `cmp` but `acc`, so `cmp` does not fall while
`acc` is not negative. -/
def Obligations.CmpFallsOnlyOnNegativeAcc : Prop :=
  ∀ s t, step s = .next t →
    (t.cmp = s.cmp ∨ t.cmp = s.cmp + s.acc) ∧ (0 ≤ s.acc → s.cmp ≤ t.cmp)

/-- 10_state.md section 5: the phase moves as its table says (the phases are the spec's D17, log entry 22). -/
def Obligations.PhaseMovesAsItsTableSays : Prop :=
  ∀ s t, Invariant s → step s = .next t →
    (phase s = .halted → phase t = .halted) ∧
    (phase s = .faulted → phase t = .faulted) ∧
    (phase s = .ready ∨ phase s = .running →
      (t.fault ≠ none → phase t = .faulted) ∧
      (t.fault = none → ∀ i, Reaches s i → phase t =
        match i with
        | .hlt => .halted
        | .cmp threshold => if threshold ≤ s.cmp then .halted else .running
        | .start | .push _ | .pop | .add | .jmp _ | .acc => .running))

/-- 10_state.md section 6: which registers each instruction leaves alone, when it leads to a next state
without raising a fault; one that raises a fault changes nothing but the latch. -/
def Obligations.InstructionsWriteOnlyTheirRegisters : Prop :=
  ∀ i s t, exec i s = .next t →
    (t.fault ≠ s.fault → t = { s with fault := t.fault }) ∧
    t.program = s.program ∧ t.last = s.last ∧ t.cap = s.cap ∧
    (i ≠ .start → i ≠ .add → t.acc = s.acc) ∧
    (i ≠ .acc → t.cmp = s.cmp) ∧
    (i ≠ .hlt → (∀ threshold, i ≠ .cmp threshold) → t.halted = s.halted) ∧
    (i = .acc ∨ (∃ target, i = .jmp target) ∨ (∃ threshold, i = .cmp threshold) → t.sp = s.sp)

/-- 10_state.md section 3 (R28, the spec's D7; log entry 8): the PHYSICAL content of the slots, stale ones
included. An instruction changes no slot but those its rule names: PUSH the slot at `sp`, ADD slot 0, START
and HLT all of them. About stale slots this rests on the spec's own decision D7 between two readings, and no
claim about the hardware may rest on it. -/
def Obligations.SlotsNotNamedKeepTheirContent : Prop :=
  ∀ i s t, exec i s = .next t → ∀ j,
    (match i with
      | .push _ => j ≠ s.sp
      | .add => j ≠ 0
      | .start | .hlt => False
      | .pop | .jmp _ | .acc | .cmp _ => True) →
    readSlot t.stack j = readSlot s.stack j

/-- 41_stack_arith.md section "Properties of the family": any sequence of PUSH and POP acts on the live slots
as on a list with room for CAP values, faulting where the list would overflow or underflow, and `sp` goes up
by the pushes less the pops. -/
def Obligations.PushAndPopRefineABoundedStack : Prop :=
  ∀ (ops : List StackOp) (s : State), s.sp ≤ s.cap → s.fault = none →
    (execAll ops s).map live = modelAll s.cap ops (live s) ∧
    ∀ t, execAll ops s = some t → t.sp + pops ops = s.sp + pushes ops ∧ (live t).length = t.sp

/-- 10_state.md section 3 and 90_conflicts.md C7: no instruction and no reading of the snapshot or of a step's
result can tell what a stale slot holds. -/
def Obligations.StaleSlotsCannotBeObserved : Prop :=
  ∀ s s', Invariant s → SameButStale s s' →
    snapshot s' = snapshot s ∧ stepResult s' = stepResult s ∧
    ∃ t t', step s = .next t ∧ step s' = .next t' ∧ SameButStale t t'

/-! ### The snapshot and the end of a run -/

/-- 50_interfaces.md section 2: the snapshot's fields, all CAP slots listed, a stale one as any value (the
spec's D7, D15 and D18; log entries 7, 8 and 23). -/
def Obligations.SnapshotShowsRegistersAndLiveSlots : Prop :=
  ∀ s : State,
    (snapshot s).sp = s.sp ∧ (snapshot s).ip = s.ip ∧ (snapshot s).acc = s.acc ∧ (snapshot s).cmp = s.cmp ∧
    (snapshot s).halted = s.halted ∧ (snapshot s).currentInstruction = s.last ∧
    (∀ x, s.program[s.ip]? = some x → (snapshot s).nextInstruction = some x) ∧
    (s.len ≤ s.ip → (snapshot s).nextInstruction = none) ∧
    (snapshot s).stack.length = s.cap ∧
    (∀ i v, i < s.sp → readSlot s.stack i = some v → (snapshot s).stack[i]? = some (some v)) ∧
    (∀ i, s.sp ≤ i → i < s.cap → (snapshot s).stack[i]? = some none)

/-- 50_interfaces.md section 5: a run that is not over executes one more instruction or ends by a fault, and a
run is over exactly in the phases `Halted` and `Faulted` (the spec's D17 and D21; log entry 22). -/
def Obligations.RunGoesOnUntilHaltOrFault : Prop :=
  ∀ s, (runOver s = true ↔ phase s = .halted ∨ phase s = .faulted) ∧
    ∀ t, runOver s = false → step s = .next t →
      t.fault = none ∧ t.last ≠ none ∧ t.last = fetch s ∨ t.fault ≠ none ∧ runOver t = true

/-! ### Decoding -/

/-- 30_encoding.md sections 3 and 7: texts written out by their ASCII bytes, one an opcode. -/
def Obligations.WrittenOutTextsDecode : Prop :=
  decode (textOfBytes [0x53, 0x54, 0x41, 0x52, 0x54]) = .ok .start ∧
  decode (textOfBytes [0x50, 0x55, 0x53, 0x48, 0x20, 0x2D, 0x31, 0x32]) = .ok (.push (-12)) ∧
  decode (textOfBytes [0x50, 0x4F, 0x50]) = .ok .pop ∧
  decode (textOfBytes [0x41, 0x44, 0x44]) = .ok .add ∧
  decode (textOfBytes [0x48, 0x4C, 0x54]) = .ok .hlt ∧
  decode (textOfBytes [0x4A, 0x4D, 0x50, 0x20, 0x32]) = .ok (.jmp 2) ∧
  decode (textOfBytes [0x41, 0x43, 0x43]) = .ok .acc ∧
  decode (textOfBytes [0x43, 0x4D, 0x50, 0x20, 0x32, 0x30]) = .ok (.cmp 20)

/-- 30_encoding.md sections 1 to 3: the decoder reads every instruction, with every operand, back from its
canonical text. -/
def Obligations.DecodeOfEncodeIsTheInstruction : Prop :=
  ∀ i : Instr, decode (encode i) = .ok i

/-- 30_encoding.md sections 1, 2 and 4: the decoder accepts exactly the texts of formats N and I, as a grammar
written apart from it says (the lexical choices are the spec's D5, D6 and D8; log entries 9 and 10). -/
def Obligations.DecodeAcceptsExactlyTheLegalTexts : Prop :=
  ∀ t : Text, (∃ i, decode t = .ok i) ↔ textWellFormed t = true

/-- 30_encoding.md section 2: the two decode errors, each exactly under its condition: no mnemonic for
operator; or a mnemonic and a text that is not legal (the lexical choices are the spec's D5, D6 and D8; log
entries 9 and 10). -/
def Obligations.DecodeErrorsAreExactlyTheTwoKinds : Prop :=
  ∀ t : Text,
    (decode t = .error .unknownOpcode ↔ (split t).1 ∉ operatorsN ++ operatorsI) ∧
    (decode t = .error .malformedOperand ↔
      (split t).1 ∈ operatorsN ++ operatorsI ∧ textWellFormed t = false)

/-- 30_encoding.md section 2: the split is at the least position of a space (U+0020 alone is the spec's D6;
log entry 9). -/
def Obligations.SplitIsAtTheFirstSpace : Prop :=
  ∀ t : Text,
    ((∀ n : Nat, t[n]? ≠ some ' ') → split t = (t, none)) ∧
    ∀ n : Nat, t[n]? = some ' ' → (∀ m, m < n → t[m]? ≠ some ' ') →
      split t = (t.take n, some (t.drop (n + 1)))

/-- 30_encoding.md section 2: an operand of one or more digits has its value in base 10, leading zeros
allowed, and the negated value after a minus sign (the grammar is the spec's D5; log entry 9). -/
def Obligations.OperandIsReadInBaseTen : Prop :=
  ∀ (d : Fin 10) (ds : List (Fin 10)),
    ∀ token : Text, token = (d :: ds).map (fun k => Char.ofNat (48 + k.val)) →
    ∀ value : Int, value = (d :: ds).foldl (fun n k => 10 * n + (k.val : Int)) 0 →
      operandValue? token = some value ∧ operandValue? ('-' :: token) = some (-value) ∧
        operandValue? ('0' :: token) = some value
end

