-- ==== Sys2Proof/Laws/Decode.lean ====
section
/-! SUPPORT. The small laws of the split, the digits and the mnemonic texts. -/

namespace Sys2Proof

theorem split_of_not_mem {t : Text} (h : ' ' ∉ t) : split t = (t, none) := by
  induction t with
  | nil => rfl
  | cons c t ih =>
    simp only [List.mem_cons, not_or] at h
    simp [split, Ne.symm h.1, ih h.2]

theorem split_append_space {a : Text} (b : Text) (h : ' ' ∉ a) : split (a ++ ' ' :: b) = (a, some b) := by
  induction a with
  | nil => simp [split]
  | cons c a ih =>
    simp only [List.mem_cons, not_or] at h
    simp [split, Ne.symm h.1, ih h.2]

/-- The operator token holds no space, and the two tokens give the text back. -/
theorem split_spec (t : Text) :
    ' ' ∉ (split t).1 ∧
      ((split t).2 = none ∧ t = (split t).1 ∨ ∃ o, (split t).2 = some o ∧ t = (split t).1 ++ ' ' :: o) := by
  induction t with
  | nil => simp [split]
  | cons c t ih =>
    by_cases hc : c = ' '
    · simp [split, hc]
    · obtain ⟨hm, h⟩ := ih
      refine ⟨by simp [split, hc, hm, Ne.symm hc], ?_⟩
      rcases h with ⟨h2, ht⟩ | ⟨o, h2, ht⟩
      · refine .inl ⟨by simp [split, hc, h2], ?_⟩
        simp only [split, hc, if_false]
        exact congrArg _ ht
      · refine .inr ⟨o, by simp [split, hc, h2], ?_⟩
        simp only [split, hc, if_false]
        rw [List.cons_append]
        exact congrArg _ ht

theorem space_not_mem_mnemonic (i : Instr) : ' ' ∉ mnemonic i := by
  cases i <;> (simp only [mnemonic]; decide)

theorem digitValue?_digitChar {d : Nat} (h : d < 10) : digitValue? (digitChar d) = some d := by
  interval_cases d <;> decide

end Sys2Proof
end

