-- ==== Sys2Proof/Laws/State.lean ====
section
/-! SUPPORT. What each named update of State does to each field: one lemma a pair, true by rfl. -/

namespace Sys2Proof.Machine

/-! ### setHalted -/

@[simp] theorem setHalted_program (s : State) : (setHalted s).program = s.program := rfl
@[simp] theorem setHalted_stack (s : State) : (setHalted s).stack = s.stack := rfl
@[simp] theorem setHalted_sp (s : State) : (setHalted s).sp = s.sp := rfl
@[simp] theorem setHalted_ip (s : State) : (setHalted s).ip = s.ip := rfl
@[simp] theorem setHalted_acc (s : State) : (setHalted s).acc = s.acc := rfl
@[simp] theorem setHalted_cmp (s : State) : (setHalted s).cmp = s.cmp := rfl
@[simp] theorem setHalted_halted (s : State) : (setHalted s).halted = true := rfl
@[simp] theorem setHalted_fault (s : State) : (setHalted s).fault = s.fault := rfl
@[simp] theorem setHalted_last (s : State) : (setHalted s).last = s.last := rfl
@[simp] theorem setHalted_len (s : State) : (setHalted s).len = s.len := rfl
@[simp] theorem setHalted_cap (s : State) : (setHalted s).cap = s.cap := rfl

/-! ### advance -/

@[simp] theorem advance_program (s : State) : (advance s).program = s.program := rfl
@[simp] theorem advance_stack (s : State) : (advance s).stack = s.stack := rfl
@[simp] theorem advance_sp (s : State) : (advance s).sp = s.sp := rfl
@[simp] theorem advance_ip (s : State) : (advance s).ip = s.ip + 1 := rfl
@[simp] theorem advance_acc (s : State) : (advance s).acc = s.acc := rfl
@[simp] theorem advance_cmp (s : State) : (advance s).cmp = s.cmp := rfl
@[simp] theorem advance_halted (s : State) : (advance s).halted = s.halted := rfl
@[simp] theorem advance_fault (s : State) : (advance s).fault = s.fault := rfl
@[simp] theorem advance_last (s : State) : (advance s).last = s.last := rfl
@[simp] theorem advance_len (s : State) : (advance s).len = s.len := rfl
@[simp] theorem advance_cap (s : State) : (advance s).cap = s.cap := rfl

/-! ### jumpTo -/

@[simp] theorem jumpTo_program (d : Nat) (s : State) : (jumpTo d s).program = s.program := rfl
@[simp] theorem jumpTo_stack (d : Nat) (s : State) : (jumpTo d s).stack = s.stack := rfl
@[simp] theorem jumpTo_sp (d : Nat) (s : State) : (jumpTo d s).sp = s.sp := rfl
@[simp] theorem jumpTo_ip (d : Nat) (s : State) : (jumpTo d s).ip = d := rfl
@[simp] theorem jumpTo_acc (d : Nat) (s : State) : (jumpTo d s).acc = s.acc := rfl
@[simp] theorem jumpTo_cmp (d : Nat) (s : State) : (jumpTo d s).cmp = s.cmp := rfl
@[simp] theorem jumpTo_halted (d : Nat) (s : State) : (jumpTo d s).halted = s.halted := rfl
@[simp] theorem jumpTo_fault (d : Nat) (s : State) : (jumpTo d s).fault = s.fault := rfl
@[simp] theorem jumpTo_last (d : Nat) (s : State) : (jumpTo d s).last = s.last := rfl
@[simp] theorem jumpTo_len (d : Nat) (s : State) : (jumpTo d s).len = s.len := rfl
@[simp] theorem jumpTo_cap (d : Nat) (s : State) : (jumpTo d s).cap = s.cap := rfl

/-! ### clearStack -/

@[simp] theorem clearStack_program (s : State) : (clearStack s).program = s.program := rfl
@[simp] theorem clearStack_stack (s : State) : (clearStack s).stack = zeroStack s.stack := rfl
@[simp] theorem clearStack_sp (s : State) : (clearStack s).sp = 0 := rfl
@[simp] theorem clearStack_ip (s : State) : (clearStack s).ip = s.ip := rfl
@[simp] theorem clearStack_acc (s : State) : (clearStack s).acc = s.acc := rfl
@[simp] theorem clearStack_cmp (s : State) : (clearStack s).cmp = s.cmp := rfl
@[simp] theorem clearStack_halted (s : State) : (clearStack s).halted = s.halted := rfl
@[simp] theorem clearStack_fault (s : State) : (clearStack s).fault = s.fault := rfl
@[simp] theorem clearStack_last (s : State) : (clearStack s).last = s.last := rfl
@[simp] theorem clearStack_len (s : State) : (clearStack s).len = s.len := rfl
@[simp] theorem clearStack_cap (s : State) : (clearStack s).cap = s.cap := by simp [State.cap, zeroStack]

/-! ### setAcc -/

@[simp] theorem setAcc_program (v : Int) (s : State) : (setAcc v s).program = s.program := rfl
@[simp] theorem setAcc_stack (v : Int) (s : State) : (setAcc v s).stack = s.stack := rfl
@[simp] theorem setAcc_sp (v : Int) (s : State) : (setAcc v s).sp = s.sp := rfl
@[simp] theorem setAcc_ip (v : Int) (s : State) : (setAcc v s).ip = s.ip := rfl
@[simp] theorem setAcc_acc (v : Int) (s : State) : (setAcc v s).acc = v := rfl
@[simp] theorem setAcc_cmp (v : Int) (s : State) : (setAcc v s).cmp = s.cmp := rfl
@[simp] theorem setAcc_halted (v : Int) (s : State) : (setAcc v s).halted = s.halted := rfl
@[simp] theorem setAcc_fault (v : Int) (s : State) : (setAcc v s).fault = s.fault := rfl
@[simp] theorem setAcc_last (v : Int) (s : State) : (setAcc v s).last = s.last := rfl
@[simp] theorem setAcc_len (v : Int) (s : State) : (setAcc v s).len = s.len := rfl
@[simp] theorem setAcc_cap (v : Int) (s : State) : (setAcc v s).cap = s.cap := rfl

/-! ### setCmp -/

@[simp] theorem setCmp_program (v : Int) (s : State) : (setCmp v s).program = s.program := rfl
@[simp] theorem setCmp_stack (v : Int) (s : State) : (setCmp v s).stack = s.stack := rfl
@[simp] theorem setCmp_sp (v : Int) (s : State) : (setCmp v s).sp = s.sp := rfl
@[simp] theorem setCmp_ip (v : Int) (s : State) : (setCmp v s).ip = s.ip := rfl
@[simp] theorem setCmp_acc (v : Int) (s : State) : (setCmp v s).acc = s.acc := rfl
@[simp] theorem setCmp_cmp (v : Int) (s : State) : (setCmp v s).cmp = v := rfl
@[simp] theorem setCmp_halted (v : Int) (s : State) : (setCmp v s).halted = s.halted := rfl
@[simp] theorem setCmp_fault (v : Int) (s : State) : (setCmp v s).fault = s.fault := rfl
@[simp] theorem setCmp_last (v : Int) (s : State) : (setCmp v s).last = s.last := rfl
@[simp] theorem setCmp_len (v : Int) (s : State) : (setCmp v s).len = s.len := rfl
@[simp] theorem setCmp_cap (v : Int) (s : State) : (setCmp v s).cap = s.cap := rfl

/-! ### pushValue -/

@[simp] theorem pushValue_program (v : Int) (s : State) : (pushValue v s).program = s.program := rfl
@[simp] theorem pushValue_stack (v : Int) (s : State) : (pushValue v s).stack = writeSlot s.stack s.sp v := rfl
@[simp] theorem pushValue_sp (v : Int) (s : State) : (pushValue v s).sp = s.sp + 1 := rfl
@[simp] theorem pushValue_ip (v : Int) (s : State) : (pushValue v s).ip = s.ip := rfl
@[simp] theorem pushValue_acc (v : Int) (s : State) : (pushValue v s).acc = s.acc := rfl
@[simp] theorem pushValue_cmp (v : Int) (s : State) : (pushValue v s).cmp = s.cmp := rfl
@[simp] theorem pushValue_halted (v : Int) (s : State) : (pushValue v s).halted = s.halted := rfl
@[simp] theorem pushValue_fault (v : Int) (s : State) : (pushValue v s).fault = s.fault := rfl
@[simp] theorem pushValue_last (v : Int) (s : State) : (pushValue v s).last = s.last := rfl
@[simp] theorem pushValue_len (v : Int) (s : State) : (pushValue v s).len = s.len := rfl
@[simp] theorem pushValue_cap (v : Int) (s : State) : (pushValue v s).cap = s.cap := by simp [State.cap, writeSlot]

/-! ### dropTop -/

@[simp] theorem dropTop_program (s : State) : (dropTop s).program = s.program := rfl
@[simp] theorem dropTop_stack (s : State) : (dropTop s).stack = s.stack := rfl
@[simp] theorem dropTop_sp (s : State) : (dropTop s).sp = s.sp - 1 := rfl
@[simp] theorem dropTop_ip (s : State) : (dropTop s).ip = s.ip := rfl
@[simp] theorem dropTop_acc (s : State) : (dropTop s).acc = s.acc := rfl
@[simp] theorem dropTop_cmp (s : State) : (dropTop s).cmp = s.cmp := rfl
@[simp] theorem dropTop_halted (s : State) : (dropTop s).halted = s.halted := rfl
@[simp] theorem dropTop_fault (s : State) : (dropTop s).fault = s.fault := rfl
@[simp] theorem dropTop_last (s : State) : (dropTop s).last = s.last := rfl
@[simp] theorem dropTop_len (s : State) : (dropTop s).len = s.len := rfl
@[simp] theorem dropTop_cap (s : State) : (dropTop s).cap = s.cap := rfl

/-! ### leaveOnly -/

@[simp] theorem leaveOnly_program (v : Int) (s : State) : (leaveOnly v s).program = s.program := rfl
@[simp] theorem leaveOnly_stack (v : Int) (s : State) : (leaveOnly v s).stack = writeSlot s.stack 0 v := rfl
@[simp] theorem leaveOnly_sp (v : Int) (s : State) : (leaveOnly v s).sp = 1 := rfl
@[simp] theorem leaveOnly_ip (v : Int) (s : State) : (leaveOnly v s).ip = s.ip := rfl
@[simp] theorem leaveOnly_acc (v : Int) (s : State) : (leaveOnly v s).acc = s.acc := rfl
@[simp] theorem leaveOnly_cmp (v : Int) (s : State) : (leaveOnly v s).cmp = s.cmp := rfl
@[simp] theorem leaveOnly_halted (v : Int) (s : State) : (leaveOnly v s).halted = s.halted := rfl
@[simp] theorem leaveOnly_fault (v : Int) (s : State) : (leaveOnly v s).fault = s.fault := rfl
@[simp] theorem leaveOnly_last (v : Int) (s : State) : (leaveOnly v s).last = s.last := rfl
@[simp] theorem leaveOnly_len (v : Int) (s : State) : (leaveOnly v s).len = s.len := rfl
@[simp] theorem leaveOnly_cap (v : Int) (s : State) : (leaveOnly v s).cap = s.cap := by simp [State.cap, writeSlot]

/-! ### setLast -/

@[simp] theorem setLast_program (x : Text) (s : State) : (setLast x s).program = s.program := rfl
@[simp] theorem setLast_stack (x : Text) (s : State) : (setLast x s).stack = s.stack := rfl
@[simp] theorem setLast_sp (x : Text) (s : State) : (setLast x s).sp = s.sp := rfl
@[simp] theorem setLast_ip (x : Text) (s : State) : (setLast x s).ip = s.ip := rfl
@[simp] theorem setLast_acc (x : Text) (s : State) : (setLast x s).acc = s.acc := rfl
@[simp] theorem setLast_cmp (x : Text) (s : State) : (setLast x s).cmp = s.cmp := rfl
@[simp] theorem setLast_halted (x : Text) (s : State) : (setLast x s).halted = s.halted := rfl
@[simp] theorem setLast_fault (x : Text) (s : State) : (setLast x s).fault = s.fault := rfl
@[simp] theorem setLast_last (x : Text) (s : State) : (setLast x s).last = some x := rfl
@[simp] theorem setLast_len (x : Text) (s : State) : (setLast x s).len = s.len := rfl
@[simp] theorem setLast_cap (x : Text) (s : State) : (setLast x s).cap = s.cap := rfl

/-! ### raise -/

@[simp] theorem raise_program (k : FaultKind) (s : State) : (raise k s).program = s.program := rfl
@[simp] theorem raise_stack (k : FaultKind) (s : State) : (raise k s).stack = s.stack := rfl
@[simp] theorem raise_sp (k : FaultKind) (s : State) : (raise k s).sp = s.sp := rfl
@[simp] theorem raise_ip (k : FaultKind) (s : State) : (raise k s).ip = s.ip := rfl
@[simp] theorem raise_acc (k : FaultKind) (s : State) : (raise k s).acc = s.acc := rfl
@[simp] theorem raise_cmp (k : FaultKind) (s : State) : (raise k s).cmp = s.cmp := rfl
@[simp] theorem raise_halted (k : FaultKind) (s : State) : (raise k s).halted = s.halted := rfl
@[simp] theorem raise_fault (k : FaultKind) (s : State) : (raise k s).fault = some k := rfl
@[simp] theorem raise_last (k : FaultKind) (s : State) : (raise k s).last = s.last := rfl
@[simp] theorem raise_len (k : FaultKind) (s : State) : (raise k s).len = s.len := rfl
@[simp] theorem raise_cap (k : FaultKind) (s : State) : (raise k s).cap = s.cap := rfl

end Sys2Proof.Machine
end

