-- ==== Sys2Proof/Laws/Memory.lean ====
section
/-! SUPPORT. The laws of the stack space: read after write, the one form, zeroing, and ADD's sum. -/

namespace Sys2Proof.Machine

@[simp] theorem readSlot_writeSlot_self {m : Memory} {i : Nat} (v : Int) (h : i < m.length) :
    readSlot (writeSlot m i v) i = some v := by
  simp [readSlot, writeSlot, h]

theorem readSlot_writeSlot_ne (m : Memory) {i j : Nat} (v : Int) (h : i ≠ j) :
    readSlot (writeSlot m i v) j = readSlot m j := by
  simp [readSlot, writeSlot, h]

theorem readSlot_zeroStack {m : Memory} {i : Nat} (h : i < m.length) :
    readSlot (zeroStack m) i = some 0 := by
  simp [readSlot, zeroStack, h]

theorem readSlot_eq_none_iff (m : Memory) (i : Nat) : readSlot m i = none ↔ m.length ≤ i := by
  simp [readSlot]

theorem Memory.wf_iff (cap : Nat) (m : Memory) : Memory.wf cap m = true ↔ m.length = cap := by
  simp [Memory.wf]

/-- A write keeps the stack's form. -/
theorem writeSlot_wf {cap : Nat} {m : Memory} (i : Nat) (v : Int) (h : Memory.wf cap m = true) :
    Memory.wf cap (writeSlot m i v) = true := by
  simpa [Memory.wf, writeSlot] using h

/-- Zeroing keeps the stack's form. -/
theorem zeroStack_wf {cap : Nat} {m : Memory} (h : Memory.wf cap m = true) :
    Memory.wf cap (zeroStack m) = true := by
  simpa [Memory.wf, zeroStack] using h

/-- A constructed engine's stack has the form. -/
theorem construct_wf (cap : Nat) (program : List Text) :
    Memory.wf cap (State.construct cap program).stack = true := by
  simp [Memory.wf, State.construct]

theorem reset_wf : Memory.wf Config.defaultCap State.reset.stack = true :=
  construct_wf _ _

/-- The first `n` slots of a zeroed stack depend on its capacity alone. -/
theorem zeroStack_eq_replicate (m : Memory) : zeroStack m = List.replicate m.length 0 := by
  simp [zeroStack]

/-- Writing slot `n` appends to the slots below it. -/
theorem take_writeSlot_succ {m : Memory} {n : Nat} (v : Int) (h : n < m.length) :
    (writeSlot m n v).take (n + 1) = m.take n ++ [v] := by
  have hn : n < (writeSlot m n v).length := by simpa [writeSlot] using h
  rw [List.take_succ_eq_append_getElem hn]
  simp [writeSlot, List.take_set_of_le]

/-- Everything ADD's sum can be: the sum of the first `n` slots where they all exist. -/
theorem sumSlots_of_le {m : Memory} {n : Nat} (h : n ≤ m.length) :
    sumSlots m n = some (m.take n).sum := by
  induction n with
  | zero => rfl
  | succ n ih =>
    have hn : n < m.length := h
    have hr : readSlot m n = some m[n] := List.getElem?_eq_getElem hn
    rw [List.take_succ_eq_append_getElem hn, List.sum_append, List.sum_singleton]
    simp only [sumSlots, ih (Nat.le_of_lt hn), hr]

/-- ADD's sum is missing exactly where a slot is. -/
theorem sumSlots_eq_none_iff (m : Memory) (n : Nat) : sumSlots m n = none ↔ m.length < n := by
  constructor
  · intro h
    by_contra hn
    simp [sumSlots_of_le (Nat.le_of_not_lt hn)] at h
  · intro h
    cases n with
    | zero => simp at h
    | succ n =>
      have hr : readSlot m n = none := (readSlot_eq_none_iff m n).2 (Nat.le_of_lt_succ h)
      simp only [sumSlots, hr]
      split <;> simp_all

end Sys2Proof.Machine
end

