-- ==== Sys2Proof/Laws/Ops.lean ====
section
/-! SUPPORT. What each shared operation and each meaning can do, said once. -/

namespace Sys2Proof.Machine

/-! ### Operands, flags, gate -/

theorem jumpDestination?_eq_some_iff (target : Int) (len d : Nat) :
    jumpDestination? target len = some d ↔ d < len ∧ target = (d : Int) + 1 := by
  unfold jumpDestination?
  split
  · rw [Option.some.injEq]
    omega
  · simp only [reduceCtorEq, false_iff]
    omega

theorem jumpDestination?_eq_none_iff (target : Int) (len : Nat) :
    jumpDestination? target len = none ↔ target < 1 ∨ (len : Int) < target := by
  unfold jumpDestination?
  split
  · simp only [reduceCtorEq, false_iff]
    omega
  · simp only [true_iff]
    omega

theorem thresholdReached_iff (cmp threshold : Int) :
    thresholdReached cmp threshold = true ↔ threshold ≤ cmp := by
  simp [thresholdReached]

theorem inert_eq_false_iff (s : State) : inert s = false ↔ s.halted = false ∧ s.fault = none := by
  simp [inert]

theorem inert_eq_true_iff (s : State) : inert s = true ↔ s.halted = true ∨ s.fault ≠ none := by
  cases h : s.fault <;> simp [inert, h]

/-! ### Fetch and commit -/

theorem fetch_eq_none_iff (s : State) : fetch s = none ↔ s.len ≤ s.ip := by
  simp [fetch, State.len]

theorem fetch_lt {s : State} {x : Text} (h : fetch s = some x) : s.ip < s.len :=
  (List.getElem?_eq_some_iff.1 h).1

theorem retire_eq_next {x : Text} {o : Host.Outcome State Fault Refusal} {t : State}
    (h : retire x o = .next t) :
    ∃ u, o = .next u ∧ (u.fault = none ∧ t = setLast x u ∨ u.fault ≠ none ∧ t = u) := by
  cases o with
  | next u =>
    refine ⟨u, rfl, ?_⟩
    simp only [retire, Host.Outcome.next.injEq] at h
    split at h
    · exact .inl ⟨‹_›, h.symm⟩
    · exact .inr ⟨‹_›, h.symm⟩
  | fault r => cases h
  | refused r => cases h

/-! ### The meanings: where each one leads -/

theorem execPush_cases (v : Int) (s : State) :
    s.sp < s.cap ∧ execPush v s = .next (advance (pushValue v s)) ∨
      s.cap ≤ s.sp ∧ execPush v s = .next (raise .stackOverflow s) := by
  unfold execPush
  split
  · exact .inl ⟨‹_›, rfl⟩
  · exact .inr ⟨Nat.le_of_not_lt ‹_›, rfl⟩

theorem execPop_cases (s : State) :
    0 < s.sp ∧ execPop s = .next (advance (dropTop s)) ∨
      s.sp = 0 ∧ execPop s = .next (raise .stackUnderflow s) := by
  unfold execPop
  split
  · exact .inr ⟨‹_›, rfl⟩
  · exact .inl ⟨Nat.pos_of_ne_zero ‹_›, rfl⟩

theorem execAdd_cases (s : State) :
    0 < s.sp ∧ s.sp ≤ s.cap ∧
        execAdd s = .next (advance (leaveOnly (s.stack.take s.sp).sum
          (setAcc (s.stack.take s.sp).sum s))) ∨
      s.sp = 0 ∧ execAdd s = .next (raise .stackUnderflow s) ∨
      s.cap < s.sp ∧ execAdd s = .fault (.slotOutsideStack (s.sp - 1)) := by
  by_cases h0 : s.sp = 0
  · exact .inr (.inl ⟨h0, by simp [execAdd, h0]⟩)
  by_cases hc : s.sp ≤ s.cap
  · exact .inl ⟨Nat.pos_of_ne_zero h0, hc, by simp [execAdd, h0, sumSlots_of_le hc]⟩
  · have hc : s.cap < s.sp := Nat.lt_of_not_le hc
    exact .inr (.inr ⟨hc, by simp [execAdd, h0, (sumSlots_eq_none_iff s.stack s.sp).2 hc]⟩)

theorem execJmp_cases (target : Int) (s : State) :
    (∃ d, d < s.len ∧ target = (d : Int) + 1 ∧ execJmp target s = .next (jumpTo d s)) ∨
      (target < 1 ∨ (s.len : Int) < target) ∧ execJmp target s = .next (raise .invalidJumpTarget s) := by
  unfold execJmp
  cases h : jumpDestination? target s.len with
  | some d =>
    obtain ⟨hd, ht⟩ := (jumpDestination?_eq_some_iff _ _ _).1 h
    exact .inl ⟨d, hd, ht, rfl⟩
  | none => exact .inr ⟨(jumpDestination?_eq_none_iff _ _).1 h, rfl⟩

theorem execCmp_cases (threshold : Int) (s : State) :
    threshold ≤ s.cmp ∧ execCmp threshold s = .next (setHalted s) ∨
      s.cmp < threshold ∧ execCmp threshold s = .next (advance s) := by
  unfold execCmp
  split
  · exact .inl ⟨(thresholdReached_iff _ _).1 ‹_›, rfl⟩
  · refine .inr ⟨?_, rfl⟩
    exact Int.not_le.1 ((thresholdReached_iff s.cmp threshold).not.1 ‹_›)

/-! ### Dispatch: where any instruction leads -/

/-- Every instruction answers a next state unless it is an ADD with `sp` beyond the stack. -/
theorem exec_answers (i : Instr) {s : State} (h : s.sp ≤ s.cap) : ∃ t, exec i s = .next t := by
  cases i with
  | start => exact ⟨_, rfl⟩
  | push v => rcases execPush_cases v s with ⟨_, e⟩ | ⟨_, e⟩ <;> exact ⟨_, e⟩
  | pop => rcases execPop_cases s with ⟨_, e⟩ | ⟨_, e⟩ <;> exact ⟨_, e⟩
  | add =>
    rcases execAdd_cases s with ⟨_, _, e⟩ | ⟨_, e⟩ | ⟨hc, _⟩
    · exact ⟨_, e⟩
    · exact ⟨_, e⟩
    · exact absurd h (Nat.not_le.2 hc)
  | hlt => exact ⟨_, rfl⟩
  | jmp target => rcases execJmp_cases target s with ⟨_, _, _, e⟩ | ⟨_, e⟩ <;> exact ⟨_, e⟩
  | acc => exact ⟨_, rfl⟩
  | cmp threshold => rcases execCmp_cases threshold s with ⟨_, e⟩ | ⟨_, e⟩ <;> exact ⟨_, e⟩

/-- Everything a next state of `exec` can be. -/
theorem exec_eq_next {i : Instr} {s t : State} (h : exec i s = .next t) :
    match i with
    | .start => t = advance (setAcc 0 (clearStack s))
    | .push v => s.sp < s.cap ∧ t = advance (pushValue v s) ∨ s.cap ≤ s.sp ∧ t = raise .stackOverflow s
    | .pop => 0 < s.sp ∧ t = advance (dropTop s) ∨ s.sp = 0 ∧ t = raise .stackUnderflow s
    | .add =>
      0 < s.sp ∧ s.sp ≤ s.cap ∧
          t = advance (leaveOnly (s.stack.take s.sp).sum (setAcc (s.stack.take s.sp).sum s)) ∨
        s.sp = 0 ∧ t = raise .stackUnderflow s
    | .hlt => t = advance (clearStack (setHalted s))
    | .jmp target =>
      (∃ d, d < s.len ∧ target = (d : Int) + 1 ∧ t = jumpTo d s) ∨
        (target < 1 ∨ (s.len : Int) < target) ∧ t = raise .invalidJumpTarget s
    | .acc => t = advance (setCmp (s.cmp + s.acc) s)
    | .cmp threshold =>
      threshold ≤ s.cmp ∧ t = setHalted s ∨ s.cmp < threshold ∧ t = advance s := by
  cases i with
  | start => exact (Host.Outcome.next.inj h).symm
  | push v =>
    rcases execPush_cases v s with ⟨hg, e⟩ | ⟨hg, e⟩
    · exact .inl ⟨hg, Host.Outcome.next.inj (h.symm.trans e)⟩
    · exact .inr ⟨hg, Host.Outcome.next.inj (h.symm.trans e)⟩
  | pop =>
    rcases execPop_cases s with ⟨hg, e⟩ | ⟨hg, e⟩
    · exact .inl ⟨hg, Host.Outcome.next.inj (h.symm.trans e)⟩
    · exact .inr ⟨hg, Host.Outcome.next.inj (h.symm.trans e)⟩
  | add =>
    rcases execAdd_cases s with ⟨hg, hc, e⟩ | ⟨hg, e⟩ | ⟨_, e⟩
    · exact .inl ⟨hg, hc, Host.Outcome.next.inj (h.symm.trans e)⟩
    · exact .inr ⟨hg, Host.Outcome.next.inj (h.symm.trans e)⟩
    · cases h.symm.trans e
  | hlt => exact (Host.Outcome.next.inj h).symm
  | jmp target =>
    rcases execJmp_cases target s with ⟨d, hd, ht, e⟩ | ⟨hg, e⟩
    · exact .inl ⟨d, hd, ht, Host.Outcome.next.inj (h.symm.trans e)⟩
    · exact .inr ⟨hg, Host.Outcome.next.inj (h.symm.trans e)⟩
  | acc => exact (Host.Outcome.next.inj h).symm
  | cmp threshold =>
    rcases execCmp_cases threshold s with ⟨hg, e⟩ | ⟨hg, e⟩
    · exact .inl ⟨hg, Host.Outcome.next.inj (h.symm.trans e)⟩
    · exact .inr ⟨hg, Host.Outcome.next.inj (h.symm.trans e)⟩

/-! ### The step: one case for each stage that can end it -/

theorem step_eq_next {s t : State} (h : step s = .next t) :
    inert s = true ∧ t = s ∨
      inert s = false ∧ fetch s = none ∧ t = raise .fetchOutOfBounds s ∨
      inert s = false ∧ (∃ x e, fetch s = some x ∧ decode x = .error e ∧ t = raise (decodeFault e) s) ∨
      inert s = false ∧ ∃ x i u, fetch s = some x ∧ decode x = .ok i ∧ exec i s = .next u ∧
        (u.fault = none ∧ t = setLast x u ∨ u.fault ≠ none ∧ t = u) := by
  unfold step at h
  cases hi : inert s with
  | true => exact .inl ⟨rfl, by simpa [hi] using h.symm⟩
  | false =>
    simp only [hi, Bool.false_eq_true, if_false] at h
    cases hf : fetch s with
    | none => exact .inr (.inl ⟨rfl, rfl, by simpa [hf] using h.symm⟩)
    | some x =>
      simp only [hf] at h
      cases hd : decode x with
      | error e => exact .inr (.inr (.inl ⟨rfl, x, e, rfl, hd, by simpa [hd] using h.symm⟩))
      | ok i =>
        simp only [hd] at h
        obtain ⟨u, hu, hc⟩ := retire_eq_next h
        exact .inr (.inr (.inr ⟨rfl, x, i, u, rfl, hd, hu, hc⟩))

end Sys2Proof.Machine
end

