-- ==== Sys2Proof/Laws/PerInstr.lean ====
section
/-! SUPPORT. Facts about every instruction as syntax, one lemma a constructor. -/

namespace Sys2Proof.Laws.Tokens

/-- The canonical text of `i` splits into the operator token of its row of the opcode map and its operand
token, absent exactly in format N (30_encoding.md R71, R72, R74, R80). -/
def Statement (i : Instr) : Prop := split (encode i) = (mnemonic i, operandText i)

theorem of_operand {i : Instr} {o : Text} (h : operandText i = some o) : Statement i := by
  simp only [Statement, encode, h]
  exact split_append_space o (space_not_mem_mnemonic i)

theorem of_no_operand {i : Instr} (h : operandText i = none) : Statement i := by
  simp only [Statement, encode, h]
  exact split_of_not_mem (space_not_mem_mnemonic i)

theorem start : Statement .start := of_no_operand rfl
theorem push (v : Int) : Statement (.push v) := of_operand rfl
theorem pop : Statement .pop := of_no_operand rfl
theorem add : Statement .add := of_no_operand rfl
theorem hlt : Statement .hlt := of_no_operand rfl
theorem jmp (target : Int) : Statement (.jmp target) := of_operand rfl
theorem acc : Statement .acc := of_no_operand rfl
theorem cmp (threshold : Int) : Statement (.cmp threshold) := of_operand rfl

end Sys2Proof.Laws.Tokens
end

