-- ==== Sys2Proof/Laws/Reaches.lean ====
section
/-! SUPPORT. Which instruction a step reaches: one at most, and none where it ends before execution. -/

namespace Sys2Proof.Safety
open Sys2Proof.Machine

theorem reaches_iff {s : State} {x : Text} {i : Instr} (hg : inert s = false) (hf : fetch s = some x)
    (hd : decode x = .ok i) (j : Instr) : Reaches s j ↔ j = i := by
  constructor
  · rintro ⟨_, y, hy, hj⟩
    cases hf.symm.trans hy
    exact Except.ok.inj (hj.symm.trans hd)
  · rintro rfl
    exact ⟨hg, x, hf, hd⟩

theorem not_reaches_of_inert {s : State} (h : inert s = true) (i : Instr) : ¬ Reaches s i := by
  rintro ⟨hg, _⟩
  cases h.symm.trans hg

theorem not_reaches_of_no_fetch {s : State} (h : fetch s = none) (i : Instr) : ¬ Reaches s i := by
  rintro ⟨_, x, hf, _⟩
  cases h.symm.trans hf

theorem not_reaches_of_decode_error {s : State} {x : Text} {e : DecodeError} (hf : fetch s = some x)
    (hd : decode x = .error e) (i : Instr) : ¬ Reaches s i := by
  rintro ⟨_, y, hy, hj⟩
  cases hf.symm.trans hy
  cases hd.symm.trans hj

end Sys2Proof.Safety
end

