-- ==== Sys2Proof/Tests/Slice0.lean ====
section
/-! SUPPORT. Tests of the model against spec/95_test_vectors.md (its sections 3 to 5 and the table of 30_encoding.md
R80), and, for each statement with hypotheses, a witness that meets them. -/

namespace Sys2Proof.Tests
open Sys2Proof Sys2Proof.Machine Sys2Proof.Safety

/-- A state that is neither halted nor faulted, with an instruction text executed before. -/
def mk (program : List String) (stack : List Int) (sp ip : Nat) (acc cmp : Int) : State where
  program := program.map String.toList
  stack := stack
  sp := sp
  ip := ip
  acc := acc
  cmp := cmp
  halted := false
  fault := none
  last := none

/-- The next state of an outcome, none where it is a stop. -/
def answer (o : Host.Outcome State Fault Refusal) : Option State :=
  match o with
  | .next t => some t
  | .fault _ => none
  | .refused _ => none

/-- The decoded form of a text, as an Option. -/
def read (t : String) : Option Instr :=
  match decode t.toList with
  | .ok i => some i
  | .error _ => none

/-- The decode error of a text, if any. -/
def readError (t : String) : Option DecodeError :=
  match decode t.toList with
  | .ok _ => none
  | .error e => some e

/-! ### Decoding: 95_test_vectors.md section 3, 30_encoding.md R80 -/

theorem test_decode_format_n :
    [[0x53, 0x54, 0x41, 0x52, 0x54], [0x50, 0x4F, 0x50], [0x41, 0x44, 0x44], [0x48, 0x4C, 0x54],
      [0x41, 0x43, 0x43]].map (fun b => (decode (textOfBytes b)).toOption) =
    [some .start, some .pop, some .add, some .hlt, some .acc] := by decide

theorem test_decode_push : (decode (textOfBytes [0x50, 0x55, 0x53, 0x48, 0x20, 0x2D, 0x30, 0x30, 0x37])).toOption =
    some (.push (-7)) := by decide

theorem test_decode_jmp : (decode (textOfBytes [0x4A, 0x4D, 0x50, 0x20, 0x2D, 0x31])).toOption =
    some (.jmp (-1)) := by decide

theorem test_decode_cmp : (decode (textOfBytes [0x43, 0x4D, 0x50, 0x20, 0x32, 0x30])).toOption =
    some (.cmp 20) := by decide

theorem test_decode_long_operand :
    read "PUSH 12345678901234567890123" = some (.push 12345678901234567890123) := by decide

theorem test_decode_minus_zero : read "PUSH -0" = some (.push 0) := by decide

theorem test_malformed_operand :
    ∀ t ∈ ["PUSH", "PUSH ", "PUSH  1", "PUSH 1 ", "PUSH 1 2", "PUSH +1", "PUSH -", "PUSH --1", "PUSH 1.5",
      "PUSH 1e3", "PUSH 0x10", "PUSH 1_000", "PUSH \t1", "POP 3", "POP ", "START 0", "HLT 0"],
    readError t = some .malformedOperand := by decide

theorem test_unknown_opcode :
    ∀ t ∈ ["HALT", "push 1", "Push 1", " PUSH 1", "", "  ", " ", "NOP", "PUSH\t1", "PUSH1", "STARTX"],
    readError t = some .unknownOpcode := by decide

/-! ### Well-formed texts: one ill-formed text for each check, which the check refuses -/

theorem test_ill_formed_no_operator : textWellFormed "HALT".toList = false := by decide
theorem test_ill_formed_operand_forbidden : textWellFormed "POP 3".toList = false := by decide
theorem test_ill_formed_operand_missing : textWellFormed "PUSH".toList = false := by decide
theorem test_ill_formed_no_digit : operandWellFormed "-".toList = false := by decide
theorem test_ill_formed_not_all_digits : operandWellFormed "1e3".toList = false := by decide
theorem test_well_formed : textWellFormed "CMP -5".toList = true := by decide

/-! ### The encoder: the spec's own spellings (30_encoding.md R86, 95_test_vectors.md section 1) -/

theorem test_encode : encode (.push (-12)) = "PUSH -12".toList ∧ encode .start = "START".toList ∧
    encode (.cmp 20) = "CMP 20".toList ∧ encode (.jmp 0) = "JMP 0".toList := by decide

theorem test_ordinals : [Instr.start, .push 1, .pop, .add, .hlt, .jmp 1, .acc, .cmp 1].map ordinal =
    [0, 1, 2, 3, 4, 5, 6, 7] := by decide

/-! ### The opcode table's numbers (opcode_table.json, log entry 18) -/

theorem test_table_words :
    decodeTableWord 40 0x5354415254 = some .start ∧ decodeTableWord 32 0x50555348 = some (.push 0) ∧
    decodeTableWord 24 0x504F50 = some .pop ∧ decodeTableWord 24 0x414444 = some .add ∧
    decodeTableWord 24 0x484C54 = some .hlt ∧ decodeTableWord 24 0x4A4D50 = some (.jmp 0) ∧
    decodeTableWord 24 0x414343 = some .acc ∧ decodeTableWord 24 0x434D50 = some (.cmp 0) ∧
    decodeTableWord 24 0x4E4F50 = none := by decide

theorem test_first_instruction_after_reset :
    (answer (step (State.reset.withFetchWord 32 0x50555348))).map (fun t => (t.sp, t.ip, t.last)) =
      some (1, 1, some "PUSH 0".toList) := by decide

/-- The first step after reset runs the instruction of each row of the table. -/
theorem test_every_row_runs_first :
    [(40, 0x5354415254), (32, 0x50555348), (24, 0x504F50), (24, 0x414444), (24, 0x484C54), (24, 0x4A4D50),
      (24, 0x414343), (24, 0x434D50)].map (fun p =>
        (answer (step (State.reset.withFetchWord p.1 p.2))).map (fun t => (t.ip, t.halted, t.fault))) =
    [some (1, false, none), some (1, false, none), some (0, false, some .stackUnderflow),
      some (0, false, some .stackUnderflow), some (1, true, none), some (0, false, some .invalidJumpTarget),
      some (1, false, none), some (0, true, none)] := by decide

/-! ### The instructions: 95_test_vectors.md section 4 -/

theorem test_start : answer (exec .start (mk [] [9, 5, 6, 7, 8] 3 4 9 12)) =
    some (mk [] [0, 0, 0, 0, 0] 0 5 0 12) := by decide

theorem test_push : answer (exec (.push 5) (mk [] [1, 2, 3, 4, 0] 4 5 0 0)) =
    some (mk [] [1, 2, 3, 4, 5] 5 6 0 0) := by decide

theorem test_push_full : answer (exec (.push 6) (mk [] [1, 2, 3, 4, 5] 5 6 0 0)) =
    some { mk [] [1, 2, 3, 4, 5] 5 6 0 0 with fault := some .stackOverflow } := by decide

theorem test_pop : answer (exec .pop (mk [] [3, 2, 0, 0, 0] 1 5 0 0)) =
    some (mk [] [3, 2, 0, 0, 0] 0 6 0 0) := by decide

theorem test_pop_empty : answer (exec .pop (mk [] [3, 2, 0, 0, 0] 0 1 0 0)) =
    some { mk [] [3, 2, 0, 0, 0] 0 1 0 0 with fault := some .stackUnderflow } := by decide

theorem test_add_overwrites_acc : answer (exec .add (mk [] [7, -3, 10, 0, 0] 3 4 100 0)) =
    some (mk [] [14, -3, 10, 0, 0] 1 5 14 0) := by decide

theorem test_add_ignores_stale : answer (exec .add (mk [] [6, 7, 3, 4, 5] 1 2 0 0)) =
    some (mk [] [6, 7, 3, 4, 5] 1 3 6 0) := by decide

theorem test_hlt : answer (exec .hlt (mk [] [14, -3, 10, 0, 0] 1 6 14 14)) =
    some { mk [] [0, 0, 0, 0, 0] 0 7 14 14 with halted := true } := by decide

/-- Nine instructions, as the JMP vectors of section 4.6 have. -/
def nine : List String := ["START", "PUSH 1", "PUSH 2", "ADD", "ACC", "POP", "CMP 20", "JMP 2", "HLT"]

theorem test_jmp_lowest_and_highest :
    ([1, 9].map fun k => (answer (exec (.jmp k) (mk nine [] 0 3 0 0))).map State.ip) = [some 0, some 8] := by
  decide

theorem test_jmp_out_of_range :
    ∀ k ∈ ([10, 0, -1] : List Int), answer (exec (.jmp k) (mk nine [] 0 3 0 0)) =
      some { mk nine [] 0 3 0 0 with fault := some .invalidJumpTarget } := by decide

theorem test_acc : answer (exec .acc (mk [] [] 0 4 (-4) (-4))) = some (mk [] [] 0 5 (-4) (-8)) := by decide

theorem test_cmp_equal_halts : answer (exec (.cmp 20) (mk [] [] 0 6 0 20)) =
    some { mk [] [] 0 6 0 20 with halted := true } := by decide

theorem test_cmp_below_advances : answer (exec (.cmp (-8)) (mk [] [] 0 5 0 (-9))) =
    some (mk [] [] 0 6 0 (-9)) := by decide

/-! ### The step and the interfaces: 95_test_vectors.md section 5 -/

theorem test_step_sets_last : answer (step (mk nine [0, 0, 0, 0, 0] 0 1 0 0)) =
    some { mk nine [1, 0, 0, 0, 0] 1 2 0 0 with last := some "PUSH 1".toList } := by decide

theorem test_step_off_the_end : answer (step (mk ["START"] [0] 0 1 0 0)) =
    some { mk ["START"] [0] 0 1 0 0 with fault := some .fetchOutOfBounds } := by decide

theorem test_step_decode_before_execute :
    (answer (step (mk ["PUSH x"] [] 0 0 0 0))).map State.fault = some (some .malformedOperand) := by decide

theorem test_step_operator_before_operand :
    (answer (step (mk ["FOO x"] [] 0 0 0 0))).map State.fault = some (some .unknownOpcode) := by decide

theorem test_step_fault_keeps_last :
    answer (step { mk ["START", "POP"] [0] 0 1 0 0 with last := some "START".toList }) =
      some { mk ["START", "POP"] [0] 0 1 0 0 with last := some "START".toList, fault := some .stackUnderflow } := by
  decide

theorem test_step_halted_at_len_is_inert :
    stepResult { mk ["HLT"] [0] 0 1 0 0 with halted := true } = some .inert := by decide

theorem test_result_of_overflow :
    stepResult (mk ["PUSH 3"] [1, 2] 2 0 0 0) = some (.fault
      ⟨.stackOverflow, 0, some "PUSH 3".toList, .spCap 2 2⟩) := by decide

theorem test_result_of_bad_jump :
    stepResult (mk ["JMP 10"] [] 0 0 0 0) = some (.fault
      ⟨.invalidJumpTarget, 0, some "JMP 10".toList, .targetLen 10 1⟩) := by decide

theorem test_snapshot :
    snapshot { mk nine [1, 0, 0, 0, 0] 1 2 0 0 with last := some "PUSH 1".toList } =
      { sp := 1, ip := 2, acc := 0, cmp := 0, stack := [some 1, none, none, none, none], halted := false,
        currentInstruction := some "PUSH 1".toList, nextInstruction := some "PUSH 2".toList } := by decide

theorem test_fault_codes :
    [none, some FaultKind.stackUnderflow, some .stackOverflow, some .invalidJumpTarget, some .unknownOpcode,
      some .malformedOperand, some .fetchOutOfBounds].map faultCode = [0, 1, 2, 3, 4, 5, 6] := by decide

theorem test_exit_status_is_not_zero : Config.exitStatusFatal ≠ 0 := Nat.succ_ne_zero _

theorem test_reconstruct_clears_cmp :
    (mk nine [1, 2] 1 3 4 5).reconstruct = mk nine [0, 0] 0 0 0 0 := by decide

/-! ### Witnesses: the hypotheses of each statement are met together -/

theorem witness_construction_slot : readSlot (State.construct 5 []).stack 4 = some 0 := by decide

theorem witness_push_room : (mk [] [1, 2, 3, 4, 0] 4 5 0 0).sp < (mk [] [1, 2, 3, 4, 0] 4 5 0 0).cap := by decide

theorem witness_push_full : (mk [] [1] 1 0 0 0).sp = (mk [] [1] 1 0 0 0).cap := by decide

theorem witness_push_no_capacity : (mk [] [] 0 0 0 0).sp = (mk [] [] 0 0 0 0).cap := by decide

theorem witness_pop_live : 0 < (mk [] [3, 2] 1 5 0 0).sp := by decide

theorem witness_pop_empty : (mk [] [3, 2] 0 5 0 0).sp = 0 := by decide

theorem witness_add_full : 0 < (mk [] [3, 2] 2 5 0 0).sp ∧ (mk [] [3, 2] 2 5 0 0).sp ≤ (mk [] [3, 2] 2 5 0 0).cap := by
  decide

theorem witness_jmp_in_range : ∀ k ∈ ([1, 9] : List Int), 1 ≤ k ∧ k ≤ ((mk nine [] 0 3 0 0).len : Int) := by decide

theorem witness_jmp_out_of_range : ∀ k ∈ ([0, 10] : List Int), k < 1 ∨ ((mk nine [] 0 3 0 0).len : Int) < k := by
  decide

theorem witness_cmp_reached : (20 : Int) ≤ (mk [] [] 0 6 0 20).cmp ∧ (mk [] [] 0 6 0 19).cmp < 20 := by decide

theorem witness_push_then_add : (mk [] [7, 0] 1 1 0 0).sp = 1 ∧ 1 < (mk [] [7, 0] 1 1 0 0).cap ∧
    readSlot (mk [] [7, 0] 1 1 0 0).stack 0 = some 7 := by decide

theorem witness_start_forgets : ([8, 9] : Memory).length = (mk [] [1, 2] 1 0 3 4).cap := by decide

theorem witness_step_inert_halted : { mk nine [] 0 9 0 0 with halted := true }.halted = true := by decide

theorem witness_step_inert_faulted : { mk nine [] 0 0 0 0 with fault := some .stackOverflow }.fault ≠ none := by
  decide

theorem witness_step_off_the_end : (mk ["START"] [0] 0 1 0 0).len ≤ (mk ["START"] [0] 0 1 0 0).ip := by decide

theorem witness_step_decode_errors :
    (mk ["FOO x", "PUSH x"] [] 0 0 0 0).program[0]? = some "FOO x".toList ∧
    readError "FOO x" = some .unknownOpcode ∧
    (mk ["FOO x", "PUSH x"] [] 0 1 0 0).program[1]? = some "PUSH x".toList ∧
    readError "PUSH x" = some .malformedOperand := by decide

theorem witness_step_executes : read "POP" = some .pop ∧
    (answer (exec .pop (mk ["POP"] [3] 1 0 0 0))).map State.fault = some none ∧
    (answer (exec .pop (mk ["POP"] [3] 0 0 0 0))).map State.fault = some (some .stackUnderflow) := by decide

theorem witness_step_stops : step (mk ["ADD"] [3] 2 0 0 0) = .fault (.slotOutsideStack 1) := rfl

theorem witness_reaches : Reaches (mk nine [] 0 7 0 0) (.jmp 2) ∧
    (answer (step (mk nine [] 0 7 0 0))).map (fun t => (t.fault, t.ip)) = some (none, 1) :=
  ⟨⟨rfl, _, rfl, rfl⟩, by decide⟩

theorem witness_reaches_cmp : Reaches (mk nine [] 0 6 0 20) (.cmp 20) ∧ Reaches (mk nine [] 0 6 0 19) (.cmp 20) ∧
    (answer (step (mk nine [] 0 6 0 20))).map (fun t => (t.fault, t.ip, t.halted)) = some (none, 6, true) ∧
    (answer (step (mk nine [] 0 6 0 19))).map (fun t => (t.fault, t.ip, t.halted)) = some (none, 7, false) :=
  ⟨⟨rfl, _, rfl, rfl⟩, ⟨rfl, _, rfl, rfl⟩, by decide, by decide⟩

theorem witness_reaches_advance : Reaches (mk ["START"] [] 0 0 0 0) .start ∧
    (answer (step (mk ["START"] [] 0 0 0 0))).map (fun t => (t.fault, t.ip)) = some (none, 1) :=
  ⟨⟨rfl, _, rfl, rfl⟩, by decide⟩

theorem witness_faulting_step : (mk ["POP"] [] 0 0 0 0).fault = none ∧
    (answer (step (mk ["POP"] [] 0 0 0 0))).map State.fault = some (some .stackUnderflow) := by decide

theorem witness_result_clauses :
    (answer (step { mk ["POP"] [] 0 0 0 0 with halted := true })).isSome ∧
    (answer (step (mk ["ACC"] [] 0 0 0 0))).map State.fault = some none ∧
    (answer (step (mk ["ADD"] [] 0 0 0 0))).map State.fault = some (some .stackUnderflow) := by decide

theorem witness_invariant_running : Invariant (mk nine [1, 2] 2 9 0 0) := by
  simp [Invariant, mk, State.cap, State.len, nine]

theorem witness_invariant_of_each_fault :
    Invariant (mk ["POP"] [] 0 0 0 0) ∧ Invariant (mk ["PUSH 1"] [] 0 0 0 0) ∧ Invariant (mk ["JMP 2"] [] 0 0 0 0) ∧
    Invariant (mk ["NOP"] [] 0 0 0 0) ∧ Invariant (mk ["POP 3"] [] 0 0 0 0) ∧ Invariant (mk [] [] 0 0 0 0) ∧
    [mk ["POP"] [] 0 0 0 0, mk ["PUSH 1"] [] 0 0 0 0, mk ["JMP 2"] [] 0 0 0 0, mk ["NOP"] [] 0 0 0 0,
      mk ["POP 3"] [] 0 0 0 0, mk [] [] 0 0 0 0].map (fun s => (answer (step s)).map State.fault) =
    [some (some .stackUnderflow), some (some .stackOverflow), some (some .invalidJumpTarget),
      some (some .unknownOpcode), some (some .malformedOperand), some (some .fetchOutOfBounds)] := by
  refine ⟨?_, ?_, ?_, ?_, ?_, ?_, by decide⟩ <;> simp [Invariant, mk, State.cap, State.len]

theorem witness_step_answers : (answer (step (mk nine [0, 0] 0 1 0 0))).isSome := by decide

theorem witness_halted_set :
    (mk ["HLT"] [] 0 0 0 0).halted = false ∧ (answer (step (mk ["HLT"] [] 0 0 0 0))).map State.halted = some true ∧
    (answer (step { mk ["HLT"] [] 0 0 0 0 with halted := true })).map State.halted = some true := by decide

theorem witness_registers_change :
    (answer (step (mk ["ADD"] [4] 1 0 9 0))).map State.acc = some 4 ∧
    (answer (step (mk ["ACC"] [4] 1 0 9 0))).map State.cmp = some 9 ∧
    (answer (step (mk ["POP"] [4] 1 0 9 0))).map State.sp = some 0 := by decide

theorem witness_acc_not_negative : (0 : Int) ≤ (mk ["ACC"] [] 0 0 0 7).acc ∧
    (answer (step (mk ["ACC"] [] 0 0 0 7))).map State.cmp = some 7 := by decide

theorem witness_phases :
    phase { mk nine [] 0 0 0 0 with halted := true } = .halted ∧
    phase { mk nine [] 0 0 0 0 with fault := some .stackOverflow } = .faulted ∧
    phase (mk nine [] 0 0 0 0) = .ready ∧
    phase { mk nine [] 0 0 0 0 with last := some "START".toList } = .running := by decide

theorem witness_phase_states_meet_invariant :
    Invariant { mk nine [] 0 0 0 0 with halted := true } ∧
    Invariant { mk nine [] 0 0 0 0 with fault := some .stackOverflow } ∧
    Invariant (mk nine [] 0 0 0 0) ∧ Reaches (mk nine [] 0 0 0 0) .start ∧
    (answer (step (mk nine [] 0 0 0 0))).map phase = some .running :=
  ⟨by simp [Invariant, mk], by simp [Invariant, mk], by simp [Invariant, mk], ⟨rfl, _, rfl, rfl⟩, by decide⟩

theorem witness_registers_kept : exec .pop (mk [] [4] 1 0 9 8) = .next (mk [] [4] 0 1 9 8) ∧
    Instr.pop ≠ .start ∧ Instr.pop ≠ .add ∧ Instr.pop ≠ .acc ∧ Instr.pop ≠ .hlt ∧ ∀ k, Instr.pop ≠ .cmp k :=
  ⟨rfl, by decide, by decide, by decide, by decide, fun _ => Instr.noConfusion⟩

theorem witness_sp_kept : exec .acc (mk [] [4] 1 0 9 8) = .next (mk [] [4] 1 1 9 17) ∧
    exec (.jmp 1) (mk ["HLT"] [4] 1 0 9 8) = .next (mk ["HLT"] [4] 1 0 9 8) ∧
    exec (.cmp 9) (mk [] [4] 1 0 9 8) = .next (mk [] [4] 1 1 9 8) := ⟨rfl, rfl, rfl⟩

theorem witness_slot_kept : exec (.push 5) (mk [] [4, 0] 1 0 0 0) = .next (mk [] [4, 5] 2 1 0 0) ∧
    0 ≠ (mk [] [4, 0] 1 0 0 0).sp ∧ exec .add (mk [] [4, 6] 2 0 0 0) = .next (mk [] [10, 6] 1 1 10 0) ∧ 1 ≠ 0 :=
  ⟨rfl, by decide, rfl, by decide⟩

theorem witness_push_and_pop : (mk [] [0, 0] 0 0 0 0).sp ≤ (mk [] [0, 0] 0 0 0 0).cap ∧
    (execAll [.push 4, .push 5, .pop, .push 6] (mk [] [0, 0] 0 0 0 0)).map live = some [4, 6] ∧
    execAll [.push 4, .push 5, .push 6] (mk [] [0, 0] 0 0 0 0) = none ∧
    execAll [.push 4, .pop, .pop] (mk [] [0, 0] 0 0 0 0) = none := by decide

theorem witness_same_but_stale : Invariant (mk ["ADD"] [4, 7] 1 0 0 0) ∧
    SameButStale (mk ["ADD"] [4, 7] 1 0 0 0) (mk ["ADD"] [4, 9] 1 0 0 0) :=
  ⟨by simp [Invariant, mk, State.cap, State.len], by simp [SameButStale, mk, live, State.cap]⟩

theorem witness_snapshot_clauses : 0 < (mk nine [4, 7] 1 8 0 0).sp ∧ (mk nine [4, 7] 1 8 0 0).sp ≤ 1 ∧
    1 < (mk nine [4, 7] 1 8 0 0).cap ∧ (mk nine [4, 7] 1 8 0 0).program[8]? = some "HLT".toList ∧
    (mk nine [4, 7] 1 9 0 0).len ≤ (mk nine [4, 7] 1 9 0 0).ip := by decide

theorem witness_run_goes_on : runOver (mk nine [0, 0] 0 0 0 0) = false ∧
    (answer (step (mk nine [0, 0] 0 0 0 0))).map State.last = some (some "START".toList) := by decide

theorem witness_split_no_space : split "START".toList = ("START".toList, none) := by decide

theorem witness_split_first_space : split " 1".toList = ([], some "1".toList) ∧
    split "PUSH 1 2".toList = ("PUSH".toList, some "1 2".toList) := by decide

theorem witness_operand_value : operandValue? "007".toList = some 7 ∧ operandValue? "-12".toList = some (-12) := by
  decide

end Sys2Proof.Tests
end

/-! START, PUSH, POP and ADD (41_stack_arith.md): each obligation from the instruction's cases in
Sys2Proof/Laws/Ops.lean and the field laws of the state updates. -/

namespace Sys2Proof.Proofs.StackArith
open Sys2Proof Sys2Proof.Machine

/-- Reading slots 0 to `n - 1` one by one gives the first `n` slots; a slot that does not exist gives none. -/
theorem filterMap_readSlot_range (m : Memory) (n : Nat) :
    (List.range n).filterMap (readSlot m) = m.take n := by
  induction n with
  | zero => rfl
  | succ n ih =>
    have hlast : [n].filterMap (readSlot m) = m[n]?.toList := by
      cases h : m[n]? <;> simp [readSlot, h]
    rw [List.range_succ, List.filterMap_append, ih, hlast, List.take_add_one]

/-- Settles O4: the next state is the model's own updates, and zeroing reaches every slot. -/
theorem startClearsStackAndAcc : Obligations.StartClearsStackAndAcc := by
  intro s
  refine ⟨advance (setAcc 0 (clearStack s)), rfl, fun i hi => ?_, ?_⟩
  · exact readSlot_zeroStack hi
  · simp

/-- Settles O5, by the two cases of PUSH: room, where only the slot at the old `sp` is written, or none. -/
theorem pushStoresOrOverflows : Obligations.PushStoresOrOverflows := by
  intro v s
  obtain ⟨hroom, hexec⟩ | ⟨hfull, hexec⟩ := execPush_cases v s
  · refine ⟨fun _ => ⟨_, hexec, ?_, rfl, rfl, fun i hi => ?_, ?_⟩, fun hc => absurd hc hroom.ne⟩
    · exact readSlot_writeSlot_self v hroom
    · exact readSlot_writeSlot_ne s.stack v hi.ne'
    · simp
  · exact ⟨fun hroom => absurd hroom hfull.not_gt, fun _ => hexec⟩

/-- Settles O6, by the two cases of POP: a live slot, where no slot is written, or none. -/
theorem popDropsOrUnderflows : Obligations.PopDropsOrUnderflows := by
  intro s
  obtain ⟨hlive, hexec⟩ | ⟨hempty, hexec⟩ := execPop_cases s
  · refine ⟨fun _ => ⟨_, hexec, ?_⟩, fun h0 => absurd h0 hlive.ne'⟩
    simp
  · exact ⟨fun hlive => absurd hempty hlive.ne', fun _ => hexec⟩

/-- Settles O7, by the cases of ADD; its sum over the live slots is the statement's sum of slot reads. -/
theorem addSumsLiveSlotsOrUnderflows : Obligations.AddSumsLiveSlotsOrUnderflows := by
  intro s
  obtain ⟨hlive, hcap, hexec⟩ | ⟨hempty, hexec⟩ | ⟨hbeyond, _⟩ := execAdd_cases s
  · refine ⟨fun _ _ => ⟨_, hexec, ?_, ?_, rfl, rfl, ?_⟩, fun h0 => absurd h0 hlive.ne'⟩
    · exact congrArg List.sum (filterMap_readSlot_range s.stack s.sp).symm
    · exact readSlot_writeSlot_self _ (hlive.trans_le hcap)
    · simp
  · exact ⟨fun hlive => absurd hempty hlive.ne', fun _ => hexec⟩
  · exact ⟨fun _ hcap => absurd hcap hbeyond.not_ge, fun h0 => absurd h0 (Nat.ne_zero_of_lt hbeyond)⟩

end Sys2Proof.Proofs.StackArith

/-! HLT and JMP (42_control.md): HLT from the field laws of its updates, JMP from its two cases in
Sys2Proof/Laws/Ops.lean. -/

namespace Sys2Proof.Proofs.Control
open Sys2Proof Sys2Proof.Machine

/-- Settles O8: the next state is the model's own updates, and zeroing reaches every slot. -/
theorem hltHaltsAndClearsStack : Obligations.HltHaltsAndClearsStack := by
  intro s
  refine ⟨advance (clearStack (setHalted s)), rfl, rfl, fun i hi => ?_, ?_⟩
  · exact readSlot_zeroStack hi
  · simp

/-- Settles O9, by the two cases of JMP: a destination in the program, or none. -/
theorem jmpGoesToTargetLessOneOrFaults : Obligations.JmpGoesToTargetLessOneOrFaults := by
  intro target s
  obtain ⟨d, hd, htarget, hexec⟩ | ⟨hout, hexec⟩ := execJmp_cases target s
  · exact ⟨fun _ _ => ⟨d, by omega, hd, hexec⟩, fun hout => by omega⟩
  · exact ⟨fun hlow hhigh => by omega, fun _ => hexec⟩

end Sys2Proof.Proofs.Control

/-! ACC and CMP (43_compare.md): ACC from its one meaning, CMP from its two cases in
Sys2Proof/Laws/Ops.lean. -/

namespace Sys2Proof.Proofs.Compare
open Sys2Proof Sys2Proof.Machine

/-- Settles O10: ACC has no case to tell apart, and its one next state is `advance` after `setCmp`, which
write `ip` and `cmp` and no other field. -/
theorem accAddsAccumulatorToCmp : Obligations.AccAddsAccumulatorToCmp :=
  fun _ => rfl

/-- Settles O11, by the two cases of CMP: `cmp` at or past the threshold, or below it; each excludes the
other clause's hypothesis. -/
theorem cmpHaltsExactlyAtThreshold : Obligations.CmpHaltsExactlyAtThreshold := by
  intro threshold s
  obtain ⟨hreached, hexec⟩ | ⟨hbelow, hexec⟩ := execCmp_cases threshold s
  · exact ⟨fun _ => hexec, fun hbelow => absurd hreached hbelow.not_ge⟩
  · exact ⟨fun hreached => absurd hbelow hreached.not_gt, fun _ => hexec⟩

end Sys2Proof.Proofs.Compare

/-! The decoder (30_encoding.md): the split, operands read and written in base 10, and the decoder against the
grammar of WellFormed.lean. -/

namespace Sys2Proof.Proofs.Decoding
open Sys2Proof

/-! ### Digits and operands -/

theorem digitsFrom?_digitChar_cons (n : Nat) {d : Nat} (hd : d < 10) (rest : Text) :
    digitsFrom? n (digitChar d :: rest) = digitsFrom? (10 * n + d) rest := by
  simp [digitsFrom?, digitValue?_digitChar hd]

/-- The digits of `n` put before `rest` are read as `n`, and the reading goes on at `rest`. -/
theorem digitsFrom?_decimalDigits {fuel n : Nat} (hfuel : n < fuel) (rest : Text) :
    digitsFrom? 0 (decimalDigits fuel n rest) = digitsFrom? n rest := by
  induction fuel generalizing n rest with
  | zero => omega
  | succ fuel ih =>
    by_cases hn : n < 10
    · simp only [decimalDigits, hn, if_true, digitsFrom?_digitChar_cons 0 hn, Nat.mul_zero, Nat.zero_add]
    · have hquot : n / 10 < fuel := by omega
      have hmod : n % 10 < 10 := Nat.mod_lt n (by decide)
      simp only [decimalDigits, hn, if_false, ih hquot, digitsFrom?_digitChar_cons _ hmod, Nat.div_add_mod]

theorem digitsFrom?_natText (n : Nat) : digitsFrom? 0 (natText n) = some n :=
  digitsFrom?_decimalDigits (Nat.lt_succ_self n) []

theorem decimalDigits_ne_nil {fuel : Nat} {rest : Text} (h : 0 < fuel ∨ rest ≠ []) (n : Nat) :
    decimalDigits fuel n rest ≠ [] := by
  induction fuel generalizing n rest with
  | zero => simpa [decimalDigits] using h
  | succ fuel ih =>
    unfold decimalDigits
    split
    · exact List.cons_ne_nil _ _
    · exact ih (.inr (List.cons_ne_nil _ _)) _

theorem natText_ne_nil (n : Nat) : natText n ≠ [] :=
  decimalDigits_ne_nil (.inl (Nat.succ_pos n)) n

theorem unsignedValue?_eq_digitsFrom? {t : Text} (h : t ≠ []) : unsignedValue? t = digitsFrom? 0 t := by
  cases t with
  | nil => exact absurd rfl h
  | cons c t => rfl

/-- Digits have the value read off them, and the negated value after a minus sign; a minus sign is itself no
digit, so it cannot be mistaken for one. -/
theorem operandValue?_of_digits {t : Text} {n : Nat} (hne : t ≠ []) (h : digitsFrom? 0 t = some n) :
    operandValue? t = some (n : Int) ∧ operandValue? ('-' :: t) = some (-(n : Int)) := by
  have hval : unsignedValue? t = some n := (unsignedValue?_eq_digitsFrom? hne).trans h
  refine ⟨?_, by simp [operandValue?, hval]⟩
  cases t with
  | nil => exact absurd rfl hne
  | cons c t =>
    have hminus : c ≠ '-' := by
      rintro rfl
      have hsign : digitValue? '-' = none := by decide
      simp [digitsFrom?, hsign] at h
    simp [operandValue?, hminus, hval]

theorem operandValue?_intText (v : Int) : operandValue? (intText v) = some v := by
  cases v with
  | ofNat n => exact (operandValue?_of_digits (natText_ne_nil n) (digitsFrom?_natText n)).1
  | negSucc n => exact (operandValue?_of_digits (natText_ne_nil _) (digitsFrom?_natText (n + 1))).2

theorem digitsFrom?_digits (n : Nat) (ds : List (Fin 10)) :
    digitsFrom? n (ds.map fun k => Char.ofNat (48 + k.val)) =
      some (ds.foldl (fun n k => 10 * n + k.val) n) := by
  induction ds generalizing n with
  | nil => rfl
  | cons d ds ih => exact (digitsFrom?_digitChar_cons n d.isLt _).trans (ih _)

theorem foldl_digits_cast (n : Nat) (ds : List (Fin 10)) :
    ds.foldl (fun n k => 10 * n + (k.val : Int)) (n : Int) =
      ((ds.foldl (fun n k => 10 * n + k.val) n : Nat) : Int) := by
  induction ds generalizing n with
  | nil => rfl
  | cons d ds ih => simpa using ih (10 * n + d.val)

/-! ### The two tokens of each instruction -/

theorem split_encode (i : Instr) : split (encode i) = (mnemonic i, operandText i) := by
  cases i with
  | start => exact Laws.Tokens.start
  | push v => exact Laws.Tokens.push v
  | pop => exact Laws.Tokens.pop
  | add => exact Laws.Tokens.add
  | hlt => exact Laws.Tokens.hlt
  | jmp target => exact Laws.Tokens.jmp target
  | acc => exact Laws.Tokens.acc
  | cmp threshold => exact Laws.Tokens.cmp threshold

theorem withOperand_intText (f : Int → Instr) (v : Int) : withOperand f (some (intText v)) = .ok (f v) := by
  simp only [withOperand, operandValue?_intText]

theorem decodeTokens_mnemonic (i : Instr) : decodeTokens (mnemonic i) (operandText i) = .ok i := by
  cases i with
  | start => rfl
  | push v => exact withOperand_intText .push v
  | pop => rfl
  | add => rfl
  | hlt => rfl
  | jmp target => exact withOperand_intText .jmp target
  | acc => rfl
  | cmp threshold => exact withOperand_intText .cmp threshold

/-- Settles O34: the canonical text splits into its own tokens, and its operand is read back as written. -/
theorem decodeOfEncodeIsTheInstruction : Obligations.DecodeOfEncodeIsTheInstruction := by
  intro i
  rw [decode, split_encode]
  exact decodeTokens_mnemonic i

/-- Settles O33, by running the decoder on each of the eight texts. -/
theorem writtenOutTextsDecode : Obligations.WrittenOutTextsDecode :=
  ⟨rfl, rfl, rfl, rfl, rfl, rfl, rfl, rfl⟩

/-- Settles O37: a text is the part before its first space, the space and the rest. -/
theorem splitIsAtTheFirstSpace : Obligations.SplitIsAtTheFirstSpace := by
  intro t
  refine ⟨fun hnone => split_of_not_mem fun hmem => ?_, fun n hn hleast => ?_⟩
  · obtain ⟨n, hn⟩ := List.mem_iff_getElem?.1 hmem
    exact hnone n hn
  · obtain ⟨hlt, hget⟩ := List.getElem?_eq_some_iff.1 hn
    have hcut : t = t.take n ++ ' ' :: t.drop (n + 1) := by
      rw [← hget, List.getElem_cons_drop, List.take_append_drop]
    have hbefore : ' ' ∉ t.take n := by
      intro hmem
      obtain ⟨m, hm⟩ := List.mem_iff_getElem?.1 hmem
      rw [List.getElem?_take] at hm
      split at hm
      case isTrue hlt => exact hleast m hlt hm
      case isFalse => cases hm
    calc split t = split (t.take n ++ ' ' :: t.drop (n + 1)) := congrArg split hcut
      _ = _ := split_append_space _ hbefore

/-- Settles O38: digits are read in base 10 with or without a sign, and a leading 0 adds nothing. -/
theorem operandIsReadInBaseTen : Obligations.OperandIsReadInBaseTen := by
  rintro d ds token rfl value rfl
  have hread := digitsFrom?_digits 0 (d :: ds)
  have hread0 : digitsFrom? 0 ('0' :: (d :: ds).map fun k => Char.ofNat (48 + k.val)) = _ :=
    (digitsFrom?_digitChar_cons 0 (d := 0) (by decide) _).trans hread
  rw [← Nat.cast_zero, foldl_digits_cast]
  obtain ⟨hplain, hneg⟩ := operandValue?_of_digits (List.cons_ne_nil _ _) hread
  exact ⟨hplain, hneg, (operandValue?_of_digits (List.cons_ne_nil _ _) hread0).1⟩

/-! ### The operand grammar accepts what the decoder reads -/

theorem isDecimalDigit_eq_isSome (c : Char) : isDecimalDigit c = (digitValue? c).isSome := by
  by_cases h : 48 ≤ c.toNat ∧ c.toNat ≤ 57
  · obtain ⟨hlow, hhigh⟩ := h
    have hc : c = Char.ofNat c.toNat := (Char.ofNat_toNat c).symm
    generalize c.toNat = n at hc hlow hhigh
    subst hc
    interval_cases n <;> decide
  · have hno : isDecimalDigit c = false := by
      refine Bool.eq_false_iff.2 fun hdigit => h ?_
      simp only [isDecimalDigit, List.contains_eq_mem, decide_eq_true_eq, List.mem_cons, List.not_mem_nil,
        or_false] at hdigit
      rcases hdigit with rfl | rfl | rfl | rfl | rfl | rfl | rfl | rfl | rfl | rfl <;> decide
    simp [hno, digitValue?, h]

theorem digitsFrom?_isSome (n : Nat) (t : Text) : (digitsFrom? n t).isSome = t.all isDecimalDigit := by
  induction t generalizing n with
  | nil => rfl
  | cons c t ih =>
    cases h : digitValue? c <;> simp [digitsFrom?, isDecimalDigit_eq_isSome, h, ih]

theorem unsignedValue?_isSome (t : Text) : (unsignedValue? t).isSome = unsignedWellFormed t := by
  cases t with
  | nil => rfl
  | cons c t => exact digitsFrom?_isSome 0 (c :: t)

theorem operandValue?_isSome (t : Text) : (operandValue? t).isSome = operandWellFormed t := by
  cases t with
  | nil => rfl
  | cons c t =>
    simp only [operandValue?, operandWellFormed, ← unsignedValue?_isSome]
    split
    · cases unsignedValue? t <;> rfl
    · cases unsignedValue? (c :: t) <;> rfl

/-! ### The formats, read off the two tokens -/

theorem space_not_mem_operator {m : Text} (h : m ∈ operatorsN ++ operatorsI) : ' ' ∉ m := by
  revert m
  decide

theorem formatN_iff (t : Text) : formatN t = true ↔ (split t).1 ∈ operatorsN ∧ (split t).2 = none := by
  constructor
  · intro h
    have hmem : t ∈ operatorsN := by simpa [formatN] using h
    simp [split_of_not_mem (space_not_mem_operator (List.mem_append_left _ hmem)), hmem]
  · rintro ⟨hmem, hnone⟩
    obtain ⟨_, ⟨_, ht⟩ | ⟨o, hsome, _⟩⟩ := split_spec t
    · rw [← ht] at hmem
      simpa [formatN] using hmem
    · cases hnone.symm.trans hsome

theorem formatI_iff (t : Text) :
    formatI t = true ↔
      (split t).1 ∈ operatorsI ∧ ∃ o, (split t).2 = some o ∧ operandWellFormed o = true := by
  simp only [formatI, List.any_eq_true, Bool.and_eq_true, List.isPrefixOf_iff_prefix]
  constructor
  · rintro ⟨m, hmem, ⟨o, rfl⟩, hwf⟩
    have hsplit : split (m ++ [' '] ++ o) = (m, some o) := by
      simpa using split_append_space o (space_not_mem_operator (List.mem_append_right _ hmem))
    rw [hsplit]
    exact ⟨hmem, o, rfl, by simpa using hwf⟩
  · rintro ⟨hmem, o, ho, hwf⟩
    obtain ⟨_, ⟨hnone, _⟩ | ⟨o', ho', ht⟩⟩ := split_spec t
    · cases hnone.symm.trans ho
    · obtain rfl : o' = o := Option.some.inj (ho'.symm.trans ho)
      refine ⟨_, hmem, ⟨o', by simpa using ht.symm⟩, ?_⟩
      rw [ht, split_append_space o' (space_not_mem_operator (List.mem_append_right _ hmem))]
      simpa using hwf

/-! ### The decoder, one case for each kind of operator -/

theorem not_mem_operatorsI_of_mem_operatorsN {m : Text} (h : m ∈ operatorsN) : m ∉ operatorsI := by
  revert m
  decide

theorem decodeTokens_of_mem_operatorsN {m : Text} (h : m ∈ operatorsN) :
    ∃ i, ∀ o, decodeTokens m o = withoutOperand i o := by
  simp only [operatorsN, List.mem_cons, List.not_mem_nil, or_false] at h
  rcases h with rfl | rfl | rfl | rfl | rfl
  · exact ⟨.start, fun _ => rfl⟩
  · exact ⟨.pop, fun _ => rfl⟩
  · exact ⟨.add, fun _ => rfl⟩
  · exact ⟨.hlt, fun _ => rfl⟩
  · exact ⟨.acc, fun _ => rfl⟩

theorem decodeTokens_of_mem_operatorsI {m : Text} (h : m ∈ operatorsI) :
    ∃ f, ∀ o, decodeTokens m o = withOperand f o := by
  simp only [operatorsI, List.mem_cons, List.not_mem_nil, or_false] at h
  rcases h with rfl | rfl | rfl
  · exact ⟨.push, fun _ => rfl⟩
  · exact ⟨.jmp, fun _ => rfl⟩
  · exact ⟨.cmp, fun _ => rfl⟩

theorem decodeTokens_of_not_mem {m : Text} (h : m ∉ operatorsN ++ operatorsI) (o : Option Text) :
    decodeTokens m o = .error .unknownOpcode := by
  simp only [operatorsN, operatorsI, List.cons_append, List.nil_append, List.mem_cons, List.not_mem_nil,
    or_false, not_or] at h
  obtain ⟨hstart, hpop, hadd, hhlt, hacc, hpush, hjmp, hcmp⟩ := h
  simp [decodeTokens, textStart, textPush, textPop, textAdd, textHlt, textJmp, textAcc, textCmp, hstart, hpop,
    hadd, hhlt, hacc, hpush, hjmp, hcmp]

theorem withOperand_some_of_wellFormed (f : Int → Instr) {o : Text} (h : operandWellFormed o = true) :
    ∃ v, withOperand f (some o) = .ok (f v) := by
  rw [← operandValue?_isSome] at h
  obtain ⟨v, hv⟩ := Option.isSome_iff_exists.1 h
  exact ⟨v, by simp only [withOperand, hv]⟩

theorem withOperand_some_of_not_wellFormed (f : Int → Instr) {o : Text} (h : operandWellFormed o = false) :
    withOperand f (some o) = .error .malformedOperand := by
  rw [← operandValue?_isSome, Option.isSome_eq_false_iff, Option.isNone_iff_eq_none] at h
  simp only [withOperand, h]

/-- Everything the decoder can answer: an unknown operator, a known one on a text that is not legal, or the
instruction of a legal text. -/
theorem decode_cases (t : Text) :
    (split t).1 ∉ operatorsN ++ operatorsI ∧ textWellFormed t = false ∧ decode t = .error .unknownOpcode ∨
      (split t).1 ∈ operatorsN ++ operatorsI ∧ textWellFormed t = false ∧
        decode t = .error .malformedOperand ∨
      (split t).1 ∈ operatorsN ++ operatorsI ∧ textWellFormed t = true ∧ ∃ i, decode t = .ok i := by
  have hlegal : textWellFormed t = true ↔ ((split t).1 ∈ operatorsN ∧ (split t).2 = none) ∨
      (split t).1 ∈ operatorsI ∧ ∃ o, (split t).2 = some o ∧ operandWellFormed o = true := by
    rw [textWellFormed, Bool.or_eq_true, formatN_iff, formatI_iff]
  rw [← Bool.not_eq_true, hlegal, decode]
  generalize (split t).1 = m
  generalize (split t).2 = operand
  by_cases hN : m ∈ operatorsN
  · obtain ⟨i, hi⟩ := decodeTokens_of_mem_operatorsN hN
    have hI := not_mem_operatorsI_of_mem_operatorsN hN
    cases operand <;> simp [hN, hI, hi, withoutOperand]
  by_cases hI : m ∈ operatorsI
  · obtain ⟨f, hf⟩ := decodeTokens_of_mem_operatorsI hI
    cases operand with
    | none => simp [hN, hI, hf, withOperand]
    | some o =>
      cases hwf : operandWellFormed o with
      | false => simp [hN, hI, hf, hwf, withOperand_some_of_not_wellFormed f hwf]
      | true =>
        obtain ⟨v, hv⟩ := withOperand_some_of_wellFormed f hwf
        simp [hN, hI, hf, hwf, hv]
  · have hno : m ∉ operatorsN ++ operatorsI := by simp [hN, hI]
    simp [hN, hI, decodeTokens_of_not_mem hno]

/-- Settles O35: of the decoder's three answers exactly the instruction is that of a legal text. -/
theorem decodeAcceptsExactlyTheLegalTexts : Obligations.DecodeAcceptsExactlyTheLegalTexts := by
  intro t
  obtain ⟨_, hwf, hd⟩ | ⟨_, hwf, hd⟩ | ⟨_, hwf, i, hd⟩ := decode_cases t <;> simp [hwf, hd]

/-- Settles O36, by the decoder's three answers, each under its own condition. -/
theorem decodeErrorsAreExactlyTheTwoKinds : Obligations.DecodeErrorsAreExactlyTheTwoKinds := by
  intro t
  obtain ⟨hop, hwf, hd⟩ | ⟨hop, hwf, hd⟩ | ⟨hop, hwf, i, hd⟩ := decode_cases t <;> simp [hop, hwf, hd]

end Sys2Proof.Proofs.Decoding

/-! The frame of every instruction (10_state.md section 6), where each one raises a fault, and sequences of stack
operations (41_stack_arith.md); each from `exec_eq_next` and the field laws of the state updates. -/

namespace Sys2Proof.Proofs.Execution
open Sys2Proof Sys2Proof.Machine Sys2Proof.Safety

/-! ### Frames -/

/-- Settles O27, by the cases of each instruction: it raises a fault, or its updates name the fields it writes. -/
theorem instructionsWriteOnlyTheirRegisters : Obligations.InstructionsWriteOnlyTheirRegisters := by
  intro i s t hexec
  have hcases := exec_eq_next hexec
  cases i with
  | start =>
    cases hcases
    simp
  | push v =>
    obtain ⟨_, rfl⟩ | ⟨_, rfl⟩ := hcases
    · simp
    · exact ⟨fun _ => rfl, by simp⟩
  | pop =>
    obtain ⟨_, rfl⟩ | ⟨_, rfl⟩ := hcases
    · simp
    · exact ⟨fun _ => rfl, by simp⟩
  | add =>
    obtain ⟨_, _, rfl⟩ | ⟨_, rfl⟩ := hcases
    · simp
    · exact ⟨fun _ => rfl, by simp⟩
  | hlt =>
    cases hcases
    simp
  | jmp target =>
    obtain ⟨_, _, _, rfl⟩ | ⟨_, rfl⟩ := hcases
    · simp
    · exact ⟨fun _ => rfl, by simp⟩
  | acc =>
    cases hcases
    simp
  | cmp threshold => obtain ⟨_, rfl⟩ | ⟨_, rfl⟩ := hcases <;> simp

/-- Settles O28, by the cases of each instruction: only PUSH and ADD write one slot, START and HLT all. -/
theorem slotsNotNamedKeepTheirContent : Obligations.SlotsNotNamedKeepTheirContent := by
  intro i s t hexec j hj
  have hcases := exec_eq_next hexec
  cases i with
  | start => exact hj.elim
  | push v =>
    obtain ⟨_, rfl⟩ | ⟨_, rfl⟩ := hcases
    · exact readSlot_writeSlot_ne s.stack v (Ne.symm hj)
    · rfl
  | pop => obtain ⟨_, rfl⟩ | ⟨_, rfl⟩ := hcases <;> rfl
  | add =>
    obtain ⟨_, _, rfl⟩ | ⟨_, rfl⟩ := hcases
    · exact readSlot_writeSlot_ne s.stack _ (Ne.symm hj)
    · rfl
  | hlt => exact hj.elim
  | jmp target => obtain ⟨_, _, _, rfl⟩ | ⟨_, rfl⟩ := hcases <;> rfl
  | acc =>
    cases hcases
    rfl
  | cmp threshold => obtain ⟨_, rfl⟩ | ⟨_, rfl⟩ := hcases <;> rfl

theorem exec_cap {i : Instr} {s t : State} (h : exec i s = .next t) : t.cap = s.cap := by
  obtain ⟨_, _, _, hcap, _⟩ := instructionsWriteOnlyTheirRegisters i s t h
  exact hcap

theorem exec_program {i : Instr} {s t : State} (h : exec i s = .next t) : t.program = s.program := by
  obtain ⟨_, hprogram, _⟩ := instructionsWriteOnlyTheirRegisters i s t h
  exact hprogram

/-- An instruction that sets the latch has raised a fault, and done nothing else. -/
theorem exec_eq_raise_of_fault {i : Instr} {s t : State} (h : exec i s = .next t) (hs : s.fault = none)
    (ht : t.fault ≠ none) : ∃ k, t = raise k s := by
  obtain ⟨hlatch, _⟩ := instructionsWriteOnlyTheirRegisters i s t h
  obtain ⟨k, hk⟩ := Option.ne_none_iff_exists'.1 ht
  refine ⟨k, (hlatch (hs ▸ ht)).trans ?_⟩
  rw [hk]
  rfl

/-- `halted` after an instruction: it was set before, or HLT or a CMP that has reached its threshold sets it. -/
theorem exec_halted_iff {i : Instr} {s t : State} (h : exec i s = .next t) :
    t.halted = true ↔
      s.halted = true ∨ i = .hlt ∨ ∃ threshold, i = .cmp threshold ∧ threshold ≤ s.cmp := by
  obtain ⟨_, _, _, _, _, _, hkept, _⟩ := instructionsWriteOnlyTheirRegisters i s t h
  have hcases := exec_eq_next h
  cases i with
  | hlt =>
    cases hcases
    simp
  | cmp threshold =>
    obtain ⟨hreached, rfl⟩ | ⟨hbelow, rfl⟩ := hcases
    · simp [hreached]
    · simp [hbelow]
  | start | push v | pop | add | jmp target | acc => simp [hkept]

/-- `ip` and `sp` stay in their ranges: `sp` goes up only below the capacity, and `ip` by 1 at most, or to a
destination in the program. -/
theorem exec_keeps_ranges {i : Instr} {s t : State} (h : exec i s = .next t) (hsp : s.sp ≤ s.cap)
    (hip : s.ip < s.len) : t.sp ≤ t.cap ∧ t.ip ≤ t.len := by
  have hcases := exec_eq_next h
  cases i with
  | start =>
    cases hcases
    simpa using hip
  | push v =>
    obtain ⟨hroom, rfl⟩ | ⟨_, rfl⟩ := hcases
    · simpa using ⟨hroom, hip⟩
    · simpa using ⟨hsp, hip.le⟩
  | pop =>
    obtain ⟨_, rfl⟩ | ⟨_, rfl⟩ := hcases
    · simp only [advance_sp, dropTop_sp, advance_cap, dropTop_cap, advance_ip, dropTop_ip, advance_len,
        dropTop_len]
      omega
    · simpa using ⟨hsp, hip.le⟩
  | add =>
    obtain ⟨hlive, hcap, rfl⟩ | ⟨_, rfl⟩ := hcases
    · simpa using ⟨hlive.trans_le hcap, hip⟩
    · simpa using ⟨hsp, hip.le⟩
  | hlt =>
    cases hcases
    simpa using hip
  | jmp target =>
    obtain ⟨d, hd, _, rfl⟩ | ⟨_, rfl⟩ := hcases
    · simpa using ⟨hsp, hd.le⟩
    · simpa using ⟨hsp, hip.le⟩
  | acc =>
    cases hcases
    simpa using ⟨hsp, hip⟩
  | cmp threshold =>
    obtain ⟨_, rfl⟩ | ⟨_, rfl⟩ := hcases
    · simpa using ⟨hsp, hip.le⟩
    · simpa using ⟨hsp, hip⟩

/-! ### Which fault an instruction raises -/

/-- The fault that an instruction raises, if any, in a state with `sp` in range (60_exceptions.md section 2). -/
def ownFault (s : State) : Instr → Option FaultKind
  | .push _ => if s.sp = s.cap then some .stackOverflow else none
  | .pop | .add => if s.sp = 0 then some .stackUnderflow else none
  | .jmp target => if target < 1 ∨ (s.len : Int) < target then some .invalidJumpTarget else none
  | .start | .hlt | .acc | .cmp _ => none

theorem exec_fault {i : Instr} {s t : State} (h : exec i s = .next t) (hs : s.fault = none)
    (hsp : s.sp ≤ s.cap) : t.fault = ownFault s i := by
  have hcases := exec_eq_next h
  cases i with
  | start | hlt | acc =>
    cases hcases
    exact hs
  | push v =>
    obtain ⟨hroom, rfl⟩ | ⟨hfull, rfl⟩ := hcases
    · simp [ownFault, hs, hroom.ne]
    · simp [ownFault, hsp.antisymm hfull]
  | pop =>
    obtain ⟨hlive, rfl⟩ | ⟨hempty, rfl⟩ := hcases
    · simp [ownFault, hs, hlive.ne']
    · simp [ownFault, hempty]
  | add =>
    obtain ⟨hlive, _, rfl⟩ | ⟨hempty, rfl⟩ := hcases
    · simp [ownFault, hs, hlive.ne']
    · simp [ownFault, hempty]
  | jmp target =>
    obtain ⟨d, hd, htarget, rfl⟩ | ⟨hout, rfl⟩ := hcases
    · have hin : ¬ (target < 1 ∨ (s.len : Int) < target) := by omega
      simp [ownFault, hs, hin]
    · simp [ownFault, hout]
  | cmp threshold => obtain ⟨_, rfl⟩ | ⟨_, rfl⟩ := hcases <;> exact hs

theorem ownFault_eq_stackUnderflow_iff (s : State) (i : Instr) :
    ownFault s i = some .stackUnderflow ↔ s.sp = 0 ∧ (i = .pop ∨ i = .add) := by
  cases i <;> simp [ownFault]

theorem ownFault_eq_stackOverflow_iff (s : State) (i : Instr) :
    ownFault s i = some .stackOverflow ↔ s.sp = s.cap ∧ ∃ v, i = .push v := by
  cases i <;> simp [ownFault]

theorem ownFault_eq_invalidJumpTarget_iff (s : State) (i : Instr) :
    ownFault s i = some .invalidJumpTarget ↔
      ∃ target, i = .jmp target ∧ (target < 1 ∨ (s.len : Int) < target) := by
  cases i with
  | jmp target =>
    simp only [ownFault, Option.ite_none_right_eq_some, and_true, Instr.jmp.injEq, exists_eq_left']
  | start | push v | pop | add | hlt | acc | cmp threshold => simp [ownFault]

/-- No instruction raises the faults of the fetch and of the decoder. -/
theorem ownFault_ne_of_earlier_stage (s : State) (i : Instr) :
    ownFault s i ≠ some .unknownOpcode ∧ ownFault s i ≠ some .malformedOperand ∧
      ownFault s i ≠ some .fetchOutOfBounds := by
  cases i <;> simp [ownFault]

/-! ### START, PUSH and ADD together -/

/-- Settles O13: START reads nothing of the stack but its length. -/
theorem startForgetsStackAndAcc : Obligations.StartForgetsStackAndAcc := by
  intro s stack sp acc hlen
  have hzero : zeroStack stack = zeroStack s.stack := by
    rw [zeroStack_eq_replicate, zeroStack_eq_replicate, hlen, State.cap]
  simp only [exec, execStart, clearStack, setAcc, advance, hzero]

/-- Settles O12, from the statements of PUSH and ADD: after the push the live slots are `a` and `b`. -/
theorem pushThenAddGivesTheSum : Obligations.PushThenAddGivesTheSum := by
  intro a b s hsp hcap hslot
  obtain ⟨hpush, _⟩ := StackArith.pushStoresOrOverflows b s
  obtain ⟨t, htexec, htop, htsp, _, hbelow, htcap, _⟩ := hpush (by omega)
  obtain ⟨hadd, _⟩ := StackArith.addSumsLiveSlotsOrUnderflows t
  obtain ⟨u, huexec, hacc, hzero, husp, _⟩ := hadd (by omega) (by omega)
  have hslot0 : readSlot t.stack 0 = some a := (hbelow 0 (by omega)).trans hslot
  have hslot1 : readSlot t.stack 1 = some b := hsp ▸ htop
  have hsum : u.acc = a + b := by
    rw [hacc, htsp, hsp]
    simp [List.range_succ, hslot0, hslot1]
  exact ⟨t, u, htexec, huexec, hsum, hsum ▸ hzero, husp⟩

/-! ### Sequences of PUSH and POP -/

theorem live_length {s : State} (h : s.sp ≤ s.cap) : (live s).length = s.sp :=
  List.length_take_of_le h

theorem live_pushValue {s : State} (v : Int) (h : s.sp < s.cap) :
    live (advance (pushValue v s)) = live s ++ [v] :=
  take_writeSlot_succ v h

theorem live_dropTop {s : State} (h : s.sp ≤ s.cap) : live (advance (dropTop s)) = (live s).dropLast := by
  have hlen : (live s).length = s.sp := live_length h
  rw [List.dropLast_eq_take, hlen, live, live, List.take_take, Nat.min_eq_left (Nat.sub_le s.sp 1)]
  rfl

/-- Settles O29, by induction on the operations: each acts on the live slots as on the end of the list, and
faults where the list would overflow or underflow. -/
theorem pushAndPopRefineABoundedStack : Obligations.PushAndPopRefineABoundedStack := by
  intro ops
  induction ops with
  | nil => exact fun s hsp _ => ⟨rfl, fun t ht => Option.some.inj ht ▸ ⟨rfl, live_length hsp⟩⟩
  | cons o rest ih =>
    intro s hsp hfault
    cases o with
    | push v =>
      obtain ⟨hroom, hexec⟩ | ⟨hfull, hexec⟩ := execPush_cases v s
      · obtain ⟨hlive, hcount⟩ := ih (advance (pushValue v s)) (by simpa using hroom) hfault
        have hrun : execAll (.push v :: rest) s = execAll rest (advance (pushValue v s)) := by
          simp [execAll, StackOp.instr, exec, hexec, hfault]
        rw [hrun]
        refine ⟨?_, fun t ht => ?_⟩
        · simpa [modelAll, live_length hsp, hroom, live_pushValue v hroom] using hlive
        · obtain ⟨hsum, hlen⟩ := hcount t ht
          refine ⟨?_, hlen⟩
          simp [pops, pushes] at hsum ⊢
          omega
      · have hrun : execAll (.push v :: rest) s = none := by
          simp [execAll, StackOp.instr, exec, hexec]
        simp [hrun, modelAll, live_length hsp, hfull.not_gt]
    | pop =>
      obtain ⟨hsome, hexec⟩ | ⟨hempty, hexec⟩ := execPop_cases s
      · obtain ⟨hlive, hcount⟩ := ih (advance (dropTop s))
          (by simpa using (Nat.sub_le s.sp 1).trans hsp) hfault
        have hrun : execAll (.pop :: rest) s = execAll rest (advance (dropTop s)) := by
          simp [execAll, StackOp.instr, exec, hexec, hfault]
        have hne : live s ≠ [] := List.length_pos_iff.1 (by rwa [live_length hsp])
        rw [hrun]
        refine ⟨?_, fun t ht => ?_⟩
        · simpa [modelAll, hne, live_dropTop hsp] using hlive
        · obtain ⟨hsum, hlen⟩ := hcount t ht
          refine ⟨?_, hlen⟩
          simp [pops, pushes] at hsum ⊢
          omega
      · have hrun : execAll (.pop :: rest) s = none := by
          simp [execAll, StackOp.instr, exec, hexec]
        have hnil : live s = [] := List.eq_nil_of_length_eq_zero ((live_length hsp).trans hempty)
        simp [hrun, modelAll, hnil]

end Sys2Proof.Proofs.Execution

/-! The step (40_step_cycle.md): construction, the equation of each stage, what a step can do, and the statements
about steps, faults, phases and runs. -/

namespace Sys2Proof.Proofs.Stepping
open Sys2Proof Sys2Proof.Machine Sys2Proof.Safety Sys2Proof.Proofs.Execution Sys2Proof.Proofs.Decoding

/-! ### The step, one equation for each stage that can end it -/

theorem step_of_inert {s : State} (h : inert s = true) : step s = .next s := by
  simp [step, h]

theorem step_of_fetch_none {s : State} (hgate : inert s = false) (hfetch : fetch s = none) :
    step s = .next (raise .fetchOutOfBounds s) := by
  simp [step, hgate, hfetch]

theorem step_of_decode_error {s : State} {x : Text} {e : DecodeError} (hgate : inert s = false)
    (hfetch : fetch s = some x) (hdecode : decode x = .error e) :
    step s = .next (raise (decodeFault e) s) := by
  simp [step, hgate, hfetch, hdecode]

theorem step_of_decode_ok {s : State} {x : Text} {i : Instr} (hgate : inert s = false)
    (hfetch : fetch s = some x) (hdecode : decode x = .ok i) : step s = retire x (exec i s) := by
  simp [step, hgate, hfetch, hdecode]

theorem retire_of_no_fault (x : Text) {t : State} (h : t.fault = none) :
    retire x (.next t) = .next (setLast x t) := by
  simp [retire, h]

theorem retire_of_fault (x : Text) {t : State} (h : t.fault ≠ none) : retire x (.next t) = .next t := by
  simp [retire, h]

/-- The fault of a step that decodes an instruction is the instruction's own. -/
theorem retire_fault {x : Text} {u t : State} (h : retire x (.next u) = .next t) : t.fault = u.fault := by
  obtain ⟨v, hv, ⟨_, rfl⟩ | ⟨_, rfl⟩⟩ := retire_eq_next h <;> cases hv <;> rfl

theorem step_answers {s : State} (h : s.sp ≤ s.cap) : ∃ t, step s = .next t := by
  cases hgate : inert s with
  | true => exact ⟨s, step_of_inert hgate⟩
  | false =>
    cases hfetch : fetch s with
    | none => exact ⟨_, step_of_fetch_none hgate hfetch⟩
    | some x =>
      cases hdecode : decode x with
      | error e => exact ⟨_, step_of_decode_error hgate hfetch hdecode⟩
      | ok i =>
        obtain ⟨u, hexec⟩ := exec_answers i h
        rw [step_of_decode_ok hgate hfetch hdecode, hexec]
        exact ⟨_, rfl⟩

/-! ### What a step can do -/

theorem reaches_unique {s : State} {i j : Instr} (hi : Reaches s i) (hj : Reaches s j) : i = j := by
  obtain ⟨hgate, x, hfetch, hdecode⟩ := hj
  exact (reaches_iff hgate hfetch hdecode i).1 hi

/-- Everything a step that answers can do: nothing, from a halted or faulted state; raise a fault and do no more,
as the instruction it reaches does, if it reaches one; or execute an instruction and record its text. -/
theorem step_cases {s t : State} (h : step s = .next t) :
    inert s = true ∧ t = s ∨
      inert s = false ∧ (∃ k, t = raise k s) ∧ (∀ i, Reaches s i → exec i s = .next t) ∨
      inert s = false ∧ ∃ x i u, fetch s = some x ∧ Reaches s i ∧ exec i s = .next u ∧ u.fault = none ∧
        t = setLast x u := by
  obtain hinert | ⟨hgate, hfetch, rfl⟩ | ⟨hgate, x, e, hfetch, hdecode, rfl⟩ |
    ⟨hgate, x, i, u, hfetch, hdecode, hexec, hend⟩ := step_eq_next h
  · exact .inl hinert
  · exact .inr (.inl ⟨hgate, ⟨_, rfl⟩, fun i hi => absurd hi (not_reaches_of_no_fetch hfetch i)⟩)
  · exact .inr (.inl ⟨hgate, ⟨_, rfl⟩, fun i hi => absurd hi (not_reaches_of_decode_error hfetch hdecode i)⟩)
  have hreach : Reaches s i := ⟨hgate, x, hfetch, hdecode⟩
  obtain ⟨hnone, rfl⟩ | ⟨hsome, rfl⟩ := hend
  · exact .inr (.inr ⟨hgate, x, i, u, hfetch, hreach, hexec, hnone, rfl⟩)
  · obtain ⟨_, hfault⟩ := (inert_eq_false_iff s).1 hgate
    refine .inr (.inl ⟨hgate, exec_eq_raise_of_fault hexec hfault hsome, fun j hj => ?_⟩)
    exact reaches_unique hj hreach ▸ hexec

/-- A step that raises no fault executes the one instruction it reaches. -/
theorem step_of_reaches {s t : State} {i : Instr} (h : step s = .next t) (hi : Reaches s i)
    (ht : t.fault = none) :
    ∃ x u, fetch s = some x ∧ exec i s = .next u ∧ u.fault = none ∧ t = setLast x u := by
  obtain ⟨hgate, _⟩ | ⟨_, ⟨k, rfl⟩, _⟩ | ⟨_, x, j, u, hfetch, hj, hexec, hu, rfl⟩ := step_cases h
  · exact absurd hi (not_reaches_of_inert hgate i)
  · cases ht
  · obtain rfl := reaches_unique hi hj
    exact ⟨x, u, hfetch, hexec, hu, rfl⟩

/-! ### Construction -/

/-- Settles O1, by the values the definition writes; every slot is one of a list of zeros. -/
theorem constructionSetsEveryElement : Obligations.ConstructionSetsEveryElement := by
  refine ⟨?_, rfl⟩
  rintro cap program s rfl
  refine ⟨List.length_replicate, rfl, rfl, rfl, rfl, rfl, rfl, rfl, rfl, fun i hi => ?_, rfl⟩
  simp [readSlot, State.construct, hi]

/-- Settles O2: `sp` and `ip` are 0, and no fault is latched. -/
theorem constructionMeetsInvariant : Obligations.ConstructionMeetsInvariant :=
  fun _ _ => ⟨Nat.zero_le _, Nat.zero_le _, fun hboth => hboth.2 rfl⟩

/-- Settles O3: `ip` is 0, which names the first text, and no text of an empty program. -/
theorem firstStepFetchesProgramIndexZero : Obligations.FirstStepFetchesProgramIndexZero :=
  ⟨fun _ _ _ => rfl, fun _ => step_of_fetch_none rfl rfl⟩

/-! ### The step -/

/-- Settles O14, by the equations of the step's stages. -/
theorem stepRunsTheDecodedInstruction : Obligations.StepRunsTheDecodedInstruction := by
  intro s
  refine ⟨fun hend => step_of_inert ((inert_eq_true_iff s).2 hend), fun hhalted hfault => ?_⟩
  have hgate : inert s = false := (inert_eq_false_iff s).2 ⟨hhalted, hfault⟩
  refine ⟨fun hlen => step_of_fetch_none hgate ((fetch_eq_none_iff s).2 hlen), fun x hfetch => ?_⟩
  refine ⟨fun hd => step_of_decode_error hgate hfetch hd, fun hd => step_of_decode_error hgate hfetch hd, ?_⟩
  intro i hdecode
  rw [step_of_decode_ok hgate hfetch hdecode]
  refine ⟨fun t hexec ht => ?_, fun t hexec ht => ?_, fun r hexec => ?_⟩
  · exact hexec ▸ retire_of_no_fault x ht
  · exact hexec ▸ retire_of_fault x ht
  · rw [hexec]
    rfl

/-- Settles O15, by the updates each instruction makes where it raises no fault. -/
theorem executedStepLeavesIpAsItsRuleSays : Obligations.ExecutedStepLeavesIpAsItsRuleSays := by
  intro s t i hreach hstep ht
  obtain ⟨x, u, hfetch, hexec, hu, rfl⟩ := step_of_reaches hstep hreach ht
  have hip : s.ip < s.len := fetch_lt hfetch
  have hcases := exec_eq_next hexec
  cases i with
  | start | hlt | acc =>
    cases hcases
    exact ⟨rfl, hip⟩
  | push v =>
    obtain ⟨_, rfl⟩ | ⟨_, rfl⟩ := hcases
    · exact ⟨rfl, hip⟩
    · cases hu
  | pop =>
    obtain ⟨_, rfl⟩ | ⟨_, rfl⟩ := hcases
    · exact ⟨rfl, hip⟩
    · cases hu
  | add =>
    obtain ⟨_, _, rfl⟩ | ⟨_, rfl⟩ := hcases
    · exact ⟨rfl, hip⟩
    · cases hu
  | jmp target =>
    obtain ⟨d, hd, htarget, rfl⟩ | ⟨_, rfl⟩ := hcases
    · exact ⟨by simp [htarget], hd.le⟩
    · cases hu
  | cmp threshold =>
    obtain ⟨hreached, rfl⟩ | ⟨hbelow, rfl⟩ := hcases
    · exact ⟨by simp [hreached], hip.le⟩
    · exact ⟨by simp [hbelow.not_ge], hip⟩

/-- Settles O17, by what a step can do: a faulting one changes the latch alone, which no part of the report but
its kind reads. -/
theorem stepResultSaysWhatTheStepDid : Obligations.StepResultSaysWhatTheStepDid := by
  intro s t hstep
  have hresult : stepResult s = some (resultOf s t) := by simp [stepResult, hstep]
  rw [hresult]
  obtain ⟨hgate, rfl⟩ | ⟨hgate, ⟨k, rfl⟩, _⟩ | ⟨hgate, x, i, u, hfetch, _, _, hu, rfl⟩ := step_cases hstep
  · refine ⟨fun _ => ⟨by simp [resultOf, hgate], rfl⟩, fun hhalted hfault => ?_, fun _ hhalted hfault => ?_⟩
    all_goals cases hgate.symm.trans ((inert_eq_false_iff t).2 ⟨hhalted, hfault⟩)
  · refine ⟨fun hend => ?_, fun _ _ hnone => (by cases hnone), fun k' _ _ hk => ?_⟩
    · cases hgate.symm.trans ((inert_eq_true_iff s).2 hend)
    · obtain rfl : k = k' := Option.some.inj hk
      exact ⟨by simp only [resultOf, hgate, raise_fault]; rfl, rfl, rfl, rfl⟩
  · refine ⟨fun hend => ?_, fun _ _ _ => ⟨x, hfetch, rfl, ?_⟩, fun _ _ _ hsome => ?_⟩
    · cases hgate.symm.trans ((inert_eq_true_iff s).2 hend)
    · simp [resultOf, hgate, hu, hfetch]
    · cases hu.symm.trans hsome

/-! ### Faults -/

/-- Settles O18: of what a step can do, only raising a fault sets the latch. -/
theorem faultingStepWritesOnlyTheLatch : Obligations.FaultingStepWritesOnlyTheLatch := by
  intro s t hstep hs ht
  obtain ⟨_, rfl⟩ | ⟨_, ⟨k, rfl⟩, _⟩ | ⟨_, x, i, u, _, _, _, hu, rfl⟩ := step_cases hstep
  · exact absurd hs ht
  · rfl
  · exact absurd hu ht

/-- Settles O19, by the stage that ends the step: the fetch, the decoder, whose errors have conditions that
exclude each other, or the instruction reached, whose own faults are the first three. -/
theorem eachFaultIsRaisedExactlyUnderItsCondition : Obligations.EachFaultIsRaisedExactlyUnderItsCondition := by
  rintro s ⟨hsp, hip, _⟩ hhalted hfault
  have hgate : inert s = false := (inert_eq_false_iff s).2 ⟨hhalted, hfault⟩
  cases hfetch : fetch s with
  | none =>
    have hend : s.ip = s.len := hip.antisymm ((fetch_eq_none_iff s).1 hfetch)
    refine ⟨_, step_of_fetch_none hgate hfetch, ?_⟩
    simp [not_reaches_of_no_fetch hfetch, hend]
  | some x =>
    have hin : s.ip ≠ s.len := (fetch_lt hfetch).ne
    cases hdecode : decode x with
    | error e =>
      obtain ⟨hunknown, hmalformed⟩ := decodeErrorsAreExactlyTheTwoKinds x
      refine ⟨_, step_of_decode_error hgate hfetch hdecode, ?_⟩
      simp only [Option.some.injEq, exists_eq_left', ← hunknown, ← hmalformed]
      cases e <;> simp [decodeFault, not_reaches_of_decode_error hfetch hdecode, hin, hdecode]
    | ok i =>
      obtain ⟨hunknown, hmalformed⟩ := decodeErrorsAreExactlyTheTwoKinds x
      obtain ⟨u, hexec⟩ := exec_answers i hsp
      obtain ⟨t, hstep⟩ := step_answers hsp
      have hlatch : t.fault = ownFault s i := by
        rw [step_of_decode_ok hgate hfetch hdecode, hexec] at hstep
        exact (retire_fault hstep).trans (exec_fault hexec hfault hsp)
      obtain ⟨hnotUnknown, hnotMalformed, hnotFetch⟩ := ownFault_ne_of_earlier_stage s i
      refine ⟨t, hstep, ?_⟩
      simp only [hlatch, reaches_iff hgate hfetch hdecode, @eq_comm _ _ i]
      refine ⟨ownFault_eq_stackUnderflow_iff s i, ownFault_eq_stackOverflow_iff s i,
        ownFault_eq_invalidJumpTarget_iff s i, ?_, ?_, iff_of_false hnotFetch hin⟩
      · simp only [Option.some.injEq, exists_eq_left', ← hunknown, hdecode, hnotUnknown, reduceCtorEq]
      · simp only [Option.some.injEq, exists_eq_left', ← hmalformed, hdecode, hnotMalformed, reduceCtorEq]

/-! ### Invariants and whole-machine rules -/

/-- Settles O20: a step answers where `sp` is in range; raising a fault finds `halted` clear, and an instruction
keeps the ranges and leaves the latch clear. -/
theorem everyStepAnswersAndKeepsInvariant : Obligations.EveryStepAnswersAndKeepsInvariant := by
  intro s hinv
  obtain ⟨t, hstep⟩ := step_answers hinv.1
  refine ⟨t, hstep, ?_⟩
  obtain ⟨_, rfl⟩ | ⟨hgate, ⟨k, rfl⟩, _⟩ | ⟨_, x, i, u, hfetch, _, hexec, hu, rfl⟩ := step_cases hstep
  · exact hinv
  · obtain ⟨hsp, hip, _⟩ := hinv
    obtain ⟨hhalted, _⟩ := (inert_eq_false_iff s).1 hgate
    exact ⟨hsp, hip, fun hboth => Bool.false_ne_true (hhalted.symm.trans hboth.1)⟩
  · obtain ⟨hsp, hip⟩ := exec_keeps_ranges hexec hinv.1 (fetch_lt hfetch)
    exact ⟨hsp, hip, fun hboth => hboth.2 hu⟩

/-- Settles O22: raising a fault and recording the text write neither field, and no instruction does. -/
theorem stepKeepsCapacityAndProgram : Obligations.StepKeepsCapacityAndProgram := by
  intro s t hstep
  have hkept : t.cap = s.cap ∧ t.program = s.program := by
    obtain ⟨_, rfl⟩ | ⟨_, ⟨k, rfl⟩, _⟩ | ⟨_, x, i, u, _, _, hexec, _, rfl⟩ := step_cases hstep
    · exact ⟨rfl, rfl⟩
    · exact ⟨rfl, rfl⟩
    · exact ⟨exec_cap (t := u) hexec, exec_program (t := u) hexec⟩
  exact ⟨hkept.1, (Memory.wf_iff _ _).2 hkept.1, hkept.2⟩

/-- Settles O23: from a state that is not halted, the instruction reached decides whether `halted` is set, and a
step that reaches none leaves it. -/
theorem haltedIsSetExactlyByHltAndReachedCmp : Obligations.HaltedIsSetExactlyByHltAndReachedCmp := by
  intro s t hstep
  obtain ⟨hgate, rfl⟩ | ⟨hgate, ⟨k, rfl⟩, hraise⟩ | ⟨hgate, x, i, u, _, hi, hexec, _, rfl⟩ := step_cases hstep
  · refine ⟨id, fun hhalted => ?_⟩
    simp [not_reaches_of_inert hgate, hhalted]
  · obtain ⟨hclear, _⟩ := (inert_eq_false_iff s).1 hgate
    refine ⟨id, fun _ => ⟨fun hset => ?_, ?_⟩⟩
    · cases hclear.symm.trans hset
    · rintro (hhlt | ⟨threshold, hcmp, hreached⟩)
      · exact (exec_halted_iff (hraise _ hhlt)).2 (.inr (.inl rfl))
      · exact (exec_halted_iff (hraise _ hcmp)).2 (.inr (.inr ⟨threshold, rfl, hreached⟩))
  · have hreaches (j : Instr) : Reaches s j ↔ i = j :=
      ⟨reaches_unique hi, fun hij => hij ▸ hi⟩
    simp only [setLast_halted, exec_halted_iff hexec, hreaches]
    exact ⟨.inl, fun hclear => by simp [hclear]⟩

/-- A step that changes a field which raising a fault and recording the text leave has reached an instruction,
and the instruction changes it. -/
theorem exec_changes_of_step_changes {α : Type} (field : State → α) {s t : State} (hstep : step s = .next t)
    (hraise : ∀ k, field (raise k s) = field s) (hlast : ∀ x u, field (setLast x u) = field u)
    (h : field t ≠ field s) : ∃ i u, Reaches s i ∧ exec i s = .next u ∧ field u ≠ field s := by
  obtain ⟨_, rfl⟩ | ⟨_, ⟨k, rfl⟩, _⟩ | ⟨_, x, i, u, _, hi, hexec, _, rfl⟩ := step_cases hstep
  · exact absurd rfl h
  · exact absurd (hraise k) h
  · exact ⟨i, u, hi, hexec, hlast x u ▸ h⟩

/-- Settles O24, by the frame of the instruction reached. -/
theorem registersChangeOnlyByTheirWriters : Obligations.RegistersChangeOnlyByTheirWriters := by
  intro s t hstep
  refine ⟨fun hne => ?_, fun hne => ?_, fun hne => ?_⟩
  · obtain ⟨i, u, hi, hexec, hchange⟩ :=
      exec_changes_of_step_changes State.acc hstep (fun _ => rfl) (fun _ _ => rfl) hne
    obtain ⟨_, _, _, _, hacc, _⟩ := instructionsWriteOnlyTheirRegisters i s u hexec
    by_cases hadd : i = .add
    · exact .inl (hadd ▸ hi)
    by_cases hstart : i = .start
    · exact .inr (hstart ▸ hi)
    · exact absurd (hacc hstart hadd) hchange
  · obtain ⟨i, u, hi, hexec, hchange⟩ :=
      exec_changes_of_step_changes State.cmp hstep (fun _ => rfl) (fun _ _ => rfl) hne
    obtain ⟨_, _, _, _, _, hcmp, _⟩ := instructionsWriteOnlyTheirRegisters i s u hexec
    by_cases hwriter : i = .acc
    · exact hwriter ▸ hi
    · exact absurd (hcmp hwriter) hchange
  · obtain ⟨i, u, hi, hexec, hchange⟩ :=
      exec_changes_of_step_changes State.sp hstep (fun _ => rfl) (fun _ _ => rfl) hne
    obtain ⟨_, _, _, _, _, _, _, hsp⟩ := instructionsWriteOnlyTheirRegisters i s u hexec
    cases i with
    | start => exact .inl hi
    | push v => exact .inr (.inl ⟨v, hi⟩)
    | pop => exact .inr (.inr (.inl hi))
    | add => exact .inr (.inr (.inr (.inl hi)))
    | hlt => exact .inr (.inr (.inr (.inr hi)))
    | acc => exact absurd (hsp (.inl rfl)) hchange
    | jmp target => exact absurd (hsp (.inr (.inl ⟨target, rfl⟩))) hchange
    | cmp threshold => exact absurd (hsp (.inr (.inr ⟨threshold, rfl⟩))) hchange

/-- Settles O25: `cmp` is as before unless the step executes ACC, which adds `acc` to it. -/
theorem cmpFallsOnlyOnNegativeAcc : Obligations.CmpFallsOnlyOnNegativeAcc := by
  intro s t hstep
  have hmoves : t.cmp = s.cmp ∨ t.cmp = s.cmp + s.acc := by
    by_cases hsame : t.cmp = s.cmp
    · exact .inl hsame
    obtain ⟨_, hreach, _⟩ := registersChangeOnlyByTheirWriters s t hstep
    obtain ⟨_, rfl⟩ | ⟨_, ⟨k, rfl⟩, _⟩ | ⟨_, x, i, u, _, hi, hexec, _, rfl⟩ := step_cases hstep
    · exact .inl rfl
    · exact .inl rfl
    · obtain rfl := reaches_unique hi (hreach hsame)
      cases hexec
      exact .inr rfl
  exact ⟨hmoves, fun hacc => by omega⟩

/-! ### Phases and runs -/

/-- The phase, in the order in which 10_state.md R31 reads it off the state. -/
theorem phase_cases (s : State) :
    s.fault ≠ none ∧ phase s = .faulted ∨
      s.fault = none ∧ s.halted = true ∧ phase s = .halted ∨
      s.fault = none ∧ s.halted = false ∧ phase s ≠ .faulted ∧ phase s ≠ .halted := by
  by_cases hfault : s.fault = none
  · cases hhalted : s.halted with
    | true => simp [phase, hfault, hhalted]
    | false => cases hlast : s.last <;> simp [phase, hfault, hhalted, hlast]
  · simp [phase, hfault, Option.isSome_iff_ne_none]

theorem phase_eq_faulted_iff (s : State) : phase s = .faulted ↔ s.fault ≠ none := by
  obtain ⟨hf, hp⟩ | ⟨hf, _, hp⟩ | ⟨hf, _, hp, _⟩ := phase_cases s <;> simp [hf, hp]

theorem phase_eq_halted_iff (s : State) : phase s = .halted ↔ s.fault = none ∧ s.halted = true := by
  obtain ⟨hf, hp⟩ | ⟨hf, hh, hp⟩ | ⟨hf, hh, _, hp⟩ := phase_cases s
  · simp [hf, hp]
  · simp [hf, hh, hp]
  · simp [hh, hp]

/-- After an executed instruction the phase depends on `halted` alone. -/
theorem phase_setLast (x : Text) {s : State} (h : s.fault = none) :
    phase (setLast x s) = if s.halted = true then .halted else .running := by
  simp [phase, h]

/-- Settles O26: a step from Halted or Faulted is inert; after any other the latch and `halted` say the phase. -/
theorem phaseMovesAsItsTableSays : Obligations.PhaseMovesAsItsTableSays := by
  intro s t _ hstep
  have hstays (hend : s.halted = true ∨ s.fault ≠ none) : t = s :=
    Host.Outcome.next.inj (hstep.symm.trans (step_of_inert ((inert_eq_true_iff s).2 hend)))
  refine ⟨fun hp => ?_, fun hp => ?_, fun _ => ⟨(phase_eq_faulted_iff t).2, fun ht i hi => ?_⟩⟩
  · exact hstays (.inl ((phase_eq_halted_iff s).1 hp).2) ▸ hp
  · exact hstays (.inr ((phase_eq_faulted_iff s).1 hp)) ▸ hp
  · obtain ⟨x, u, _, hexec, hu, rfl⟩ := step_of_reaches hstep hi ht
    obtain ⟨hclear, _⟩ := (inert_eq_false_iff s).1 hi.1
    have hset := exec_halted_iff hexec
    rw [phase_setLast x hu]
    cases i <;> simp [hset, hclear]

/-- Settles O32: a run is over exactly where steps are inert, so a step from any other state executes an
instruction or raises a fault. -/
theorem runGoesOnUntilHaltOrFault : Obligations.RunGoesOnUntilHaltOrFault := by
  intro s
  have hover : runOver s = true ↔ s.halted = true ∨ s.fault ≠ none := inert_eq_true_iff s
  refine ⟨?_, fun t hgoes hstep => ?_⟩
  · rw [hover, phase_eq_halted_iff, phase_eq_faulted_iff]
    by_cases hfault : s.fault = none <;> simp [hfault]
  · obtain ⟨hinert, _⟩ | ⟨_, ⟨k, rfl⟩, _⟩ | ⟨_, x, i, u, hfetch, _, _, hu, rfl⟩ := step_cases hstep
    · cases hgoes.symm.trans hinert
    · exact .inr ⟨Option.some_ne_none k, (inert_eq_true_iff _).2 (.inr (Option.some_ne_none k))⟩
    · exact .inl ⟨hu, Option.some_ne_none x, hfetch.symm⟩

theorem run_succ (M : Host.Core) {s t : M.State} (h : M.step s = .next t) (n : Nat) :
    M.run (n + 1) s = M.run n t := by
  simp only [Host.Core.run, h]

/-- What every step answers and keeps, every run answers and keeps. -/
theorem run_answers_and_keeps {P : State → Prop} (hstep : ∀ s, P s → ∃ t, step s = .next t ∧ P t) (n : Nat)
    {s : State} (hs : P s) : ∃ t, Sys2Proof.core.run n s = .next t ∧ P t := by
  induction n generalizing s with
  | zero => exact ⟨s, rfl, hs⟩
  | succ n ih =>
    obtain ⟨t, ht, hPt⟩ := hstep s hs
    obtain ⟨u, hu, hPu⟩ := ih hPt
    exact ⟨u, (run_succ Sys2Proof.core ht n).trans hu, hPu⟩

/-- Settles O16: a run keeps being in the one state whose step is inert. -/
theorem haltedOrFaultedEngineStaysAsItIs : Obligations.HaltedOrFaultedEngineStaysAsItIs := by
  intro n s hend
  have hstep : step s = .next s := step_of_inert ((inert_eq_true_iff s).2 hend)
  obtain ⟨t, hrun, rfl⟩ := run_answers_and_keeps (P := (· = s)) (fun _ h => ⟨s, h ▸ hstep, rfl⟩) n rfl
  exact hrun

/-- Settles O21: construction has the invariant, the capacity and the program, and every step keeps them. -/
theorem everyRunOfEveryEngineKeepsInvariant : Obligations.EveryRunOfEveryEngineKeepsInvariant := by
  intro cap program n
  refine run_answers_and_keeps (P := fun t => Invariant t ∧ t.cap = cap ∧ t.program = program) ?_ n
    ⟨constructionMeetsInvariant cap program, List.length_replicate, rfl⟩
  rintro s ⟨hinv, hcap, hprogram⟩
  obtain ⟨t, hstep, hinv'⟩ := everyStepAnswersAndKeepsInvariant s hinv
  obtain ⟨hcap', _, hprogram'⟩ := stepKeepsCapacityAndProgram s t hstep
  exact ⟨t, hstep, hinv', hcap'.trans hcap, hprogram'.trans hprogram⟩

end Sys2Proof.Proofs.Stepping

/-! The snapshot (50_interfaces.md section 2), and stale slots (10_state.md R28, 90_conflicts.md C7): two states
that differ only there are one state on two stacks, and every update carries such a pair to such a pair. -/

namespace Sys2Proof.Proofs.StaleSlots
open Sys2Proof Sys2Proof.Machine Sys2Proof.Safety Sys2Proof.Proofs.Stepping

/-! ### One state on two stacks -/

/-- `s` with the stack `m` in place of its own. -/
def withStack (m : Memory) (s : State) : State := { s with stack := m }

/-- Two stacks of one capacity that agree below slot `n`. -/
def AgreeBelow (n : Nat) (m m' : Memory) : Prop := m'.length = m.length ∧ m'.take n = m.take n

theorem sameButStale_withStack {s : State} {m : Memory} (h : AgreeBelow s.sp s.stack m) :
    SameButStale s (withStack m s) :=
  ⟨rfl, h.1, rfl, h.2, rfl, rfl, rfl, rfl, rfl, rfl⟩

theorem eq_withStack_of_sameButStale {s s' : State} (h : SameButStale s s') :
    AgreeBelow s.sp s.stack s'.stack ∧ s' = withStack s'.stack s := by
  obtain ⟨hprogram, hcap, hsp, hlive, hip, hacc, hcmp, hhalted, hfault, hlast⟩ := h
  cases s'
  cases hprogram
  cases hsp
  cases hip
  cases hacc
  cases hcmp
  cases hhalted
  cases hfault
  cases hlast
  exact ⟨⟨hcap, hlive⟩, rfl⟩

theorem agreeBelow_writeSlot_succ {m m' : Memory} {n : Nat} (h : AgreeBelow n m m') (hn : n < m.length) (v : Int) :
    AgreeBelow (n + 1) (writeSlot m n v) (writeSlot m' n v) := by
  obtain ⟨hlen, htake⟩ := h
  refine ⟨by simp [writeSlot, hlen], ?_⟩
  rw [take_writeSlot_succ v hn, take_writeSlot_succ v (hlen ▸ hn), htake]

theorem agreeBelow_of_le {m m' : Memory} {n k : Nat} (h : AgreeBelow n m m') (hk : k ≤ n) :
    AgreeBelow k m m' := by
  obtain ⟨hlen, htake⟩ := h
  refine ⟨hlen, ?_⟩
  rw [← Nat.min_eq_left hk, ← List.take_take, ← List.take_take, htake]

theorem agreeBelow_zero {m m' : Memory} (h : m'.length = m.length) : AgreeBelow 0 m m' :=
  ⟨h, rfl⟩

theorem readSlot_of_agreeBelow {m m' : Memory} {n i : Nat} (h : AgreeBelow n m m') (hi : i < n) :
    readSlot m' i = readSlot m i := by
  rw [readSlot, readSlot, ← List.getElem?_take_of_lt hi, h.2, List.getElem?_take_of_lt hi]

/-! ### Every instruction, on two stacks -/

section TwoStacks
variable {s : State} {m : Memory} (h : AgreeBelow s.sp s.stack m)
include h

theorem cap_withStack : (withStack m s).cap = s.cap := h.1

theorem exec_add_withStack (hlive : 0 < s.sp) (hcap : s.sp ≤ s.cap) :
    exec .add (withStack m s) = .next (advance (leaveOnly (s.stack.take s.sp).sum
      (setAcc (s.stack.take s.sp).sum (withStack m s)))) := by
  have hsum : sumSlots (withStack m s).stack (withStack m s).sp = some (s.stack.take s.sp).sum := by
    have hcap' : (withStack m s).sp ≤ (withStack m s).cap := hcap.trans_eq (cap_withStack h).symm
    rw [sumSlots_of_le hcap']
    exact congrArg (fun l => some (List.sum l)) h.2
  have hne : (withStack m s).sp ≠ 0 := hlive.ne'
  simp only [exec, execAdd, hne, if_false, hsum]

/-- An instruction on two stacks that agree on the live slots: the same updates, on stacks that agree on the slots
live after it. -/
theorem exec_withStack {i : Instr} {t : State} (hexec : exec i s = .next t) :
    ∃ m', exec i (withStack m s) = .next (withStack m' t) ∧ AgreeBelow t.sp t.stack m' := by
  have hcapacity : (withStack m s).cap = s.cap := cap_withStack h
  have hzero : AgreeBelow 0 (zeroStack s.stack) (zeroStack m) := agreeBelow_zero (by simp [zeroStack, h.1])
  have hcases := exec_eq_next hexec
  cases i with
  | start =>
    cases hcases
    exact ⟨zeroStack m, rfl, hzero⟩
  | push v =>
    obtain ⟨hroom, rfl⟩ | ⟨hfull, rfl⟩ := hcases
    · exact ⟨writeSlot m s.sp v, if_pos (hroom.trans_eq hcapacity.symm), agreeBelow_writeSlot_succ h hroom v⟩
    · exact ⟨m, if_neg (hcapacity.trans_le hfull).not_gt, h⟩
  | pop =>
    obtain ⟨hlive, rfl⟩ | ⟨hempty, rfl⟩ := hcases
    · exact ⟨m, if_neg hlive.ne', agreeBelow_of_le h (Nat.sub_le s.sp 1)⟩
    · exact ⟨m, if_pos hempty, h⟩
  | add =>
    obtain ⟨hlive, hcap, rfl⟩ | ⟨hempty, rfl⟩ := hcases
    · have hbottom : AgreeBelow 0 s.stack m := agreeBelow_of_le h (Nat.zero_le _)
      exact ⟨_, exec_add_withStack h hlive hcap,
        agreeBelow_writeSlot_succ hbottom (hlive.trans_le hcap) _⟩
    · exact ⟨m, if_pos hempty, h⟩
  | hlt =>
    cases hcases
    exact ⟨zeroStack m, rfl, hzero⟩
  | jmp target =>
    obtain ⟨d, hd, htarget, rfl⟩ | ⟨hout, rfl⟩ := hcases
    · have hdest : jumpDestination? target (withStack m s).len = some d :=
        (jumpDestination?_eq_some_iff _ _ _).2 ⟨hd, htarget⟩
      exact ⟨m, by simp only [exec, execJmp, hdest]; rfl, h⟩
    · have hdest : jumpDestination? target (withStack m s).len = none :=
        (jumpDestination?_eq_none_iff _ _).2 hout
      exact ⟨m, by simp only [exec, execJmp, hdest]; rfl, h⟩
  | acc =>
    cases hcases
    exact ⟨m, rfl, h⟩
  | cmp threshold =>
    obtain ⟨hreached, rfl⟩ | ⟨hbelow, rfl⟩ := hcases
    · exact ⟨m, if_pos ((thresholdReached_iff _ _).2 hreached), h⟩
    · exact ⟨m, if_neg ((thresholdReached_iff _ _).not.2 hbelow.not_ge), h⟩

/-- The step on two stacks: it ends in the same stage, and what it commits reads no stale slot. -/
theorem step_withStack (hsp : s.sp ≤ s.cap) :
    ∃ t m', step s = .next t ∧ step (withStack m s) = .next (withStack m' t) ∧
      AgreeBelow t.sp t.stack m' := by
  cases hgate : inert s with
  | true => exact ⟨s, m, step_of_inert hgate, step_of_inert hgate, h⟩
  | false =>
    have hgate' : inert (withStack m s) = false := hgate
    cases hfetch : fetch s with
    | none => exact ⟨_, m, step_of_fetch_none hgate hfetch, step_of_fetch_none hgate' hfetch, h⟩
    | some x =>
      cases hdecode : decode x with
      | error e =>
        exact ⟨_, m, step_of_decode_error hgate hfetch hdecode, step_of_decode_error hgate' hfetch hdecode, h⟩
      | ok i =>
        obtain ⟨u, hexec⟩ := exec_answers i hsp
        obtain ⟨m', hexec', hagree⟩ := exec_withStack h hexec
        rw [step_of_decode_ok hgate hfetch hdecode, step_of_decode_ok hgate' hfetch hdecode, hexec, hexec']
        by_cases hu : u.fault = none
        · exact ⟨setLast x u, m', retire_of_no_fault x hu, retire_of_no_fault x hu, hagree⟩
        · exact ⟨u, m', retire_of_fault x hu, retire_of_fault x hu, hagree⟩

/-! ### What an observer reads -/

theorem faultReport_withStack (k : FaultKind) : faultReport k (withStack m s) = faultReport k s := by
  have hcompared : comparedValues k (withStack m s) = comparedValues k s := by
    cases k with
    | stackOverflow => exact congrArg (Compared.spCap s.sp) (cap_withStack h)
    | stackUnderflow | invalidJumpTarget | unknownOpcode | malformedOperand | fetchOutOfBounds => rfl
  exact congrArg (FaultReport.mk k s.ip (fetch s)) hcompared

theorem resultOf_withStack (m' : Memory) (t : State) :
    resultOf (withStack m s) (withStack m' t) = resultOf s t := by
  simp only [resultOf, faultReport_withStack h]
  rfl

end TwoStacks

theorem observedStack_getElem? (s : State) (i : Nat) :
    (observedStack s)[i]? = (readSlot s.stack i).map fun v => if i < s.sp then some v else none := by
  simp [observedStack, readSlot]

theorem observedStack_getElem?_of_live {s : State} {i : Nat} (h : i < s.sp) :
    (observedStack s)[i]? = (readSlot s.stack i).map some := by
  simp [observedStack_getElem?, h]

theorem observedStack_length (s : State) : (observedStack s).length = s.cap :=
  List.length_mapIdx

theorem observedStack_getElem?_of_stale {s : State} {i : Nat} (hstale : s.sp ≤ i) (hi : i < s.cap) :
    (observedStack s)[i]? = some none := by
  have hslot : readSlot s.stack i = some s.stack[i] := List.getElem?_eq_getElem hi
  simp [observedStack_getElem?, hslot, hstale.not_gt]

theorem observedStack_withStack {s : State} {m : Memory} (h : AgreeBelow s.sp s.stack m) :
    observedStack (withStack m s) = observedStack s := by
  have hcap : (withStack m s).cap = s.cap := cap_withStack h
  refine List.ext_getElem? fun i => ?_
  by_cases hlive : i < s.sp
  · have hlive' : i < (withStack m s).sp := hlive
    rw [observedStack_getElem?_of_live hlive, observedStack_getElem?_of_live hlive',
      ← readSlot_of_agreeBelow h hlive]
    rfl
  by_cases hi : i < s.cap
  · rw [observedStack_getElem?_of_stale (Nat.le_of_not_lt hlive) hi]
    exact observedStack_getElem?_of_stale (Nat.le_of_not_lt hlive) (hi.trans_eq hcap.symm)
  · have hout : (observedStack s).length ≤ i := (observedStack_length s).trans_le (Nat.le_of_not_lt hi)
    have hout' : (observedStack (withStack m s)).length ≤ i := by rwa [observedStack_length, hcap] at *
    rw [List.getElem?_eq_none hout, List.getElem?_eq_none hout']

/-- Settles O30: the two states are one state on two stacks, which every step carries to such a pair again, and
neither the snapshot nor the step's result reads a slot on which the two can differ. -/
theorem staleSlotsCannotBeObserved : Obligations.StaleSlotsCannotBeObserved := by
  rintro s s' ⟨hsp, _⟩ hsame
  obtain ⟨hagree, hs'⟩ := eq_withStack_of_sameButStale hsame
  obtain ⟨t, m', hstep, hstep', hagree'⟩ := step_withStack hagree hsp
  rw [hs']
  refine ⟨?_, ?_, t, _, hstep, hstep', sameButStale_withStack hagree'⟩
  · simp only [snapshot, observedStack_withStack hagree]
    rfl
  · simp only [stepResult, hstep, hstep', resultOf_withStack hagree]

/-- Settles O31: the snapshot's fields are the registers, its next instruction the fetch at `ip`, and its stack
the slots, each by the law of its kind. -/
theorem snapshotShowsRegistersAndLiveSlots : Obligations.SnapshotShowsRegistersAndLiveSlots := by
  intro s
  refine ⟨rfl, rfl, rfl, rfl, rfl, rfl, fun x hx => hx, (fetch_eq_none_iff s).2, observedStack_length s,
    fun i v hi hv => ?_, fun i hstale hi => observedStack_getElem?_of_stale hstale hi⟩
  exact (observedStack_getElem?_of_live hi).trans (congrArg (Option.map some) hv)

end Sys2Proof.Proofs.StaleSlots
